-- ==== Sys2Proof/Word.lean ====
section
/-! DEFINITION. The widths of the MSF60 decoder core's values and its two enumerated output values. -/

namespace Sys2Proof

/-- `u8`: a BCD byte, a chunk, a frame length (10_state.md R33, R34). -/
abbrev Byte := BitVec 8

/-- `u32`: a time in milliseconds (10_state.md R26, R27; 30_encoding.md R90). -/
abbrev Millis := BitVec 32

/-- One channel as the 64-bit view `W` of 20_memory.md R62: index `i` is bit `63 - i`. -/
abbrev Channel := BitVec 64

/-- `bitPointer`'s 6 bits (10_state.md R24). -/
abbrev Pointer := BitVec 6

/-- The 5-bit operation word `s ccc b` (30_encoding.md R94). -/
abbrev Opword := BitVec 5

/-- `parityOutcome`, the source's "enumerated {Ok, YearFailed, MonthFailed, WeekdayFailed, HourFailed}"
(10_state.md R32); the codes 5, 6, 7 cannot be written (93_implementation_defined.md U14). -/
inductive ParityOutcome where
  | ok
  | yearFailed
  | monthFailed
  | weekdayFailed
  | hourFailed
  deriving DecidableEq, Repr

/-- `leapSecondIndicator`, one of -1, 0, +1 (10_state.md R35); the pattern `10` cannot be written
(93_implementation_defined.md U14). -/
inductive LeapIndicator where
  | minusOne
  | zero
  | plusOne
  deriving DecidableEq, Repr

end Sys2Proof
end

