-- ==== Sys2Proof/Config.lean ====
section
/-! DEFINITION. The constants of the channels, of the marker gate and of `RESET`'s defaults (00_scope.md R8 to R10), the
types of the tables of R11, and the one free value the spec leaves open (44_calendar.md R219). The other constants and
the tables' values stand in Machine/Tables.lean. -/

namespace Sys2Proof.Config

/-- `CHANNEL_BITS` (R10). -/
abbrev channelBits : Nat := 64

/-- `MARKER_GATE_MIN` (R10, 42_marker_detector.md R171). -/
abbrev markerGateMin : Nat := 58

/-- `MARKER_GATE_MAX` (R10, 42_marker_detector.md R171). -/
abbrev markerGateMax : Nat := 61

/-- `PADDING_MS`'s default (00_scope.md R8). -/
def defaultPaddingMs : BitVec 16 := 0#16

/-- `CARRIER_OFF_LEVEL`'s default, 1 = high (00_scope.md R9). -/
def defaultCarrierOffLevel : Bool := true

/-- A field's place in channel A: it starts at `bitPointer - offset` and is `width` bits long
(43_field_parity.md R190). -/
structure ChunkSpec where
  offset : Nat
  width : Nat
  deriving DecidableEq, Repr

/-- The rows of `FIELD_TABLE` (43_field_parity.md R190). -/
inductive Field where
  | year
  | month
  | date
  | weekday
  | hour
  | minute
  | endMarker
  deriving DecidableEq, Repr

/-- One row of `PARITY_TABLE`: the code recorded on failure, the data chunks of channel A, and how far the
parity bit of channel B lies back from the pointer (43_field_parity.md R186). -/
structure ParityGroup where
  failure : ParityOutcome
  chunks : List ChunkSpec
  parityOffset : Nat
  deriving DecidableEq, Repr

/-- The tables that a model may take as parameters of the step function (00_scope.md R11; 10_state.md R38;
93_implementation_defined.md U9, U10, U11). -/
structure Params where
  parityTable : List ParityGroup
  dstActiveOffset : Nat
  dstImminentOffset : Nat
  monthDays : List Nat
  deriving DecidableEq, Repr

/-- `UNSPECIFIED(u64)`: the `epochSeconds` of a frame whose month is outside 1..12 or whose date is 0, "a draw:
any value, under no law" (44_calendar.md R219, 93_implementation_defined.md U5, U6). It is applied to the
number of frames begun so far (`State.draws`): the values of two frames are unrelated, and a repeated match of one frame
produces an equal record (42_marker_detector.md R177). DESIGN CHOICE: the spec states no result there.
Safe; log 7. -/
opaque epochDraw : Nat → BitVec 64

end Sys2Proof.Config
end

