-- ==== Sys2Proof/Syntax.lean ====
section
/-! DEFINITION. The transactions of the block, the nine operations an `EDGE` decodes to, and the trace notation. -/

namespace Sys2Proof

/-- One `EDGE`: the pin level after the edge (1 = high) and the platform's millisecond count at the edge
(30_encoding.md R90, R91). -/
structure Edge where
  level : Bool
  timestampMillis : Millis
  deriving DecidableEq, Repr

/-- The three transactions of the block (00_scope.md R7). -/
inductive Transaction where
  | edge (e : Edge)
  /-- `RESET(paddingMs, carrierOffLevel)` (70_reset_and_hazards.md R280). -/
  | reset (paddingMs : BitVec 16) (carrierOffLevel : Bool)
  /-- `READ()` (45_output_handoff.md R236). -/
  | read
  deriving DecidableEq, Repr

/-- The nine operations of 30_encoding.md R95, one constructor per row of the opcode table. PSTART carries its
operand `t`; SYM2 and SYM3 carry the bit `b` of their encoding. The timestamp of a pulse end is consumed by
stage 2 of the decoding (R93), and no effect of the operation depends on it any more (DEDUCED, safe; log 5). -/
inductive Instr where
  /-- Pulse start (40_pulse_classifier.md R131). -/
  | pstart (t : Millis)
  /-- Pulse end, length code <= 0 (40_pulse_classifier.md R136). -/
  | discard0
  /-- Pulse end, symbol 1, not B-only (41_bit_accumulator.md R157). -/
  | sym1
  /-- Pulse end, symbol 1, B-only (41_bit_accumulator.md R158). -/
  | sym1b
  /-- Pulse end, symbol 2, `b` = `bOnlyFlag` (41_bit_accumulator.md R159). -/
  | sym2 (b : Bool)
  /-- Pulse end, symbol 3, `b` = `bOnlyFlag` (41_bit_accumulator.md R160). -/
  | sym3 (b : Bool)
  /-- Pulse end, symbol 4 (40_pulse_classifier.md R137). -/
  | sym4
  /-- Pulse end, symbol 5 (41_bit_accumulator.md R152). -/
  | sym5
  /-- Pulse end, length code >= 6 (40_pulse_classifier.md R138). -/
  | long
  deriving DecidableEq, Repr

/-- The three data symbols (40_pulse_classifier.md R135). -/
inductive DataSymbol where
  | one
  | two
  | three
  deriving DecidableEq, Repr

/-- A statement of the trace notation: the primitive ones (30_encoding.md R104) and the pseudo-statements
(R105). -/
inductive TraceStmt where
  | off (t : Millis)
  | on (t : Millis)
  | reset (paddingMs : BitVec 16) (carrierOffLevel : Bool)
  | read
  | pulse (t d : Millis)
  | minute (t : Millis)
  | sec (t : Millis) (a b : Bool)
  deriving DecidableEq, Repr

end Sys2Proof
end

