-- ==== Sys2Proof/WellFormed.lean ====
section
/-! DEFINITION. Well-formedness: which raw operation words, operations and parameter tables are legal. -/

namespace Sys2Proof

/-- A number is an operation word when it fits the word's five bits (30_encoding.md R94). -/
def rawOpwordWf (raw : Nat) : Bool := raw < 32

/-- A number is an `EDGE` word when it fits 33 bits: "Every one of the 2^33 words is a legal transaction"
(30_encoding.md R90). -/
def rawEdgeWf (raw : Nat) : Bool := raw < 2 ^ 33

/-- Every term of `Instr` is legal: the operand widths are in the types, and R90 reserves no field. The match
names every constructor so that a new one cannot slip past. -/
def Instr.wf : Instr → Bool
  | .pstart _ => true
  | .discard0 => true
  | .sym1 => true
  | .sym1b => true
  | .sym2 _ => true
  | .sym3 _ => true
  | .sym4 => true
  | .sym5 => true
  | .long => true

namespace Config

/-- A chunk is legal when ChunkRead's side conditions hold for it at every pointer value of the marker gate,
58..61 (20_memory.md R66, R70). -/
def ChunkSpec.wf (c : ChunkSpec) : Bool :=
  decide (1 ≤ c.width) && decide (c.width ≤ 8) && decide (c.offset ≤ markerGateMin)
    && decide (markerGateMax + c.width ≤ c.offset + channelBits)

/-- A single bit back from the pointer is legal when its index is in 0..63 at every pointer value of the gate
(20_memory.md R64, R70). -/
def offsetWf (o : Nat) : Bool := decide (o ≤ markerGateMin)

/-- A row of `PARITY_TABLE` is legal when its chunks and its parity bit are, and its failure code is one of the
four failures (43_field_parity.md R186). -/
def ParityGroup.wf (g : ParityGroup) : Bool :=
  g.chunks.all ChunkSpec.wf && offsetWf g.parityOffset && decide (g.failure ≠ .ok)

/-- The parameters are legal when every index they lead to is in range and `MONTH_DAYS` has its twelve entries
(44_calendar.md R215). -/
def Params.wf (P : Params) : Bool :=
  P.parityTable.all ParityGroup.wf && offsetWf P.dstActiveOffset && offsetWf P.dstImminentOffset
    && decide (P.monthDays.length = 12)

end Config

end Sys2Proof
end

