-- ==== Sys2Proof/Decode.lean ====
section
/-! DEFINITION. The `EDGE` word, the opcode map with its decoder, and the encoder. -/

namespace Sys2Proof

/-- The event a 33-bit `EDGE` word carries: bit 32 the level, bits 31..0 the timestamp (30_encoding.md R90). -/
def Edge.ofWord (w : BitVec 33) : Edge where
  level := w.getLsbD 32
  timestampMillis := w.extractLsb' 0 32

/-- The 33-bit `EDGE` word of an event (30_encoding.md R90). -/
def Edge.toWord (e : Edge) : BitVec 33 := BitVec.ofBool e.level ++ e.timestampMillis

/-- Why a decoding was rejected. -/
inductive DecodeError where
  /-- Fewer bytes than the operation word and its operand take. -/
  | truncated
  /-- Bits above the five of an operation word are set: no transaction has such an operation word
  (30_encoding.md R94). -/
  | notAnOpword
  /-- No row of the opcode map matches; R95 says that this does not happen. -/
  | noRow
  deriving DecidableEq, Repr

/-- What the decoder answers. -/
inductive Decoded where
  | instr (i : Instr)
  | rejected (why : DecodeError)
  deriving DecidableEq, Repr

/-- A row of the opcode map: an operation word matches when its bits under `mask` are those of `pattern`
(30_encoding.md R95); `build` makes the operation from the word's fields and the timestamp. -/
structure OpcodeRow where
  mnemonic : String
  mask : Opword
  pattern : Opword
  build : Opword → Millis → Instr

/-- The field `b` of an operation word (30_encoding.md R94). -/
def opwordB (w : Opword) : Bool := w.getLsbD 0

/-- The field `ccc` of an operation word (30_encoding.md R94). -/
def opwordCode (w : Opword) : BitVec 3 := w.extractLsb' 1 3

/-- The field `s` of an operation word (30_encoding.md R94). -/
def opwordS (w : Opword) : Bool := w.getLsbD 4

/-- The opcode map (30_encoding.md R95), in the table's order. -/
def opcodeMap : List OpcodeRow :=
  [ { mnemonic := "PSTART", mask := 0x10#5, pattern := 0x10#5, build := fun _ t => .pstart t },
    { mnemonic := "DISCARD0", mask := 0x1E#5, pattern := 0x00#5, build := fun _ _ => .discard0 },
    { mnemonic := "SYM1", mask := 0x1F#5, pattern := 0x02#5, build := fun _ _ => .sym1 },
    { mnemonic := "SYM1B", mask := 0x1F#5, pattern := 0x03#5, build := fun _ _ => .sym1b },
    { mnemonic := "SYM2", mask := 0x1E#5, pattern := 0x04#5, build := fun w _ => .sym2 (opwordB w) },
    { mnemonic := "SYM3", mask := 0x1E#5, pattern := 0x06#5, build := fun w _ => .sym3 (opwordB w) },
    { mnemonic := "SYM4", mask := 0x1E#5, pattern := 0x08#5, build := fun _ _ => .sym4 },
    { mnemonic := "SYM5", mask := 0x1E#5, pattern := 0x0A#5, build := fun _ _ => .sym5 },
    { mnemonic := "LONG", mask := 0x1C#5, pattern := 0x0C#5, build := fun _ _ => .long } ]

/-- Does the row match the operation word? -/
def OpcodeRow.fits (r : OpcodeRow) (w : Opword) : Bool := (w &&& r.mask) == r.pattern

/-- The operation of an operation word and the timestamp that came with it (30_encoding.md R95). -/
def decodeOpword (w : Opword) (t : Millis) : Decoded :=
  match opcodeMap.find? (fun r => r.fits w) with
  | some r => .instr (r.build w t)
  | none => .rejected .noRow

/-- The decoder on bytes: byte 0 holds the operation word in its low five bits, bytes 1 to 4 the timestamp,
least significant byte first. DESIGN CHOICE: the spec stores no operation words and gives no byte layout; safe,
since nothing but `decodeTableWord` reads such bytes (log 5). -/
def decodeBytes : List Byte → Decoded
  | b0 :: b1 :: b2 :: b3 :: b4 :: _ =>
    if rawOpwordWf b0.toNat then decodeOpword (b0.extractLsb' 0 5) (b4 ++ b3 ++ b2 ++ b1)
    else .rejected .notAnOpword
  | _ => .rejected .truncated

/-- The decoder's answer, without the reason of a rejection. -/
def Decoded.toOption : Decoded → Option Instr
  | .instr i => some i
  | .rejected _ => none

/-- Byte `k` of a number, byte 0 the least significant. -/
def byteOf (w k : Nat) : Byte := BitVec.ofNat 8 (w / 2 ^ (8 * k))

/-- The instruction the decoder reads from a word of the opcode table; every bit above `nbits` is 0. -/
def decodeTableWord (nbits w : Nat) : Option Instr :=
  let v := w % 2 ^ nbits
  (decodeBytes [byteOf v 0, byteOf v 1, byteOf v 2, byteOf v 3, byteOf v 4]).toOption

/-- The operation word of an operation (30_encoding.md R95); a bit that takes no part in the match is 0. -/
def encodeOpword : Instr → Opword
  | .pstart _ => 0x10#5
  | .discard0 => 0x00#5
  | .sym1 => 0x02#5
  | .sym1b => 0x03#5
  | .sym2 b => 0x04#5 ||| (BitVec.ofBool b).zeroExtend 5
  | .sym3 b => 0x06#5 ||| (BitVec.ofBool b).zeroExtend 5
  | .sym4 => 0x08#5
  | .sym5 => 0x0A#5
  | .long => 0x0C#5

/-- The timestamp operand of an operation; 0 where the operation keeps none (log 5). -/
def encodeOperand : Instr → Millis
  | .pstart t => t
  | .discard0 => 0#32
  | .sym1 => 0#32
  | .sym1b => 0#32
  | .sym2 _ => 0#32
  | .sym3 _ => 0#32
  | .sym4 => 0#32
  | .sym5 => 0#32
  | .long => 0#32

/-- The encoder: the bytes `decodeBytes` reads. -/
def encode (i : Instr) : List Byte :=
  let t := encodeOperand i
  [ (encodeOpword i).zeroExtend 8, t.extractLsb' 0 8, t.extractLsb' 8 8, t.extractLsb' 16 8, t.extractLsb' 24 8 ]

end Sys2Proof
end

