-- ==== Sys2Proof/Machine/State.lean ====
section
/-! DEFINITION. The state of the block, the reasons a step can stop, and the state after reset. -/

namespace Sys2Proof.Machine

/-- One decoded minute, the thirteen fields of 10_state.md R33. The BCD bytes are as read from channel A. -/
structure TimeFrame where
  minuteBCD : Byte
  hourBCD : Byte
  weekdayBCD : Byte
  dateBCD : Byte
  monthBCD : Byte
  yearBCD : Byte
  dstActive : Bool
  dstImminent : Bool
  dut1PositiveMs : BitVec 16
  dut1NegativeMs : BitVec 16
  leapSecondIndicator : LeapIndicator
  frameLengthSeconds : Byte
  epochSeconds : BitVec 64
  deriving DecidableEq, Repr

/-- The record with every field 0, `lastFrame`'s reset value (10_state.md R33, R37). -/
def TimeFrame.zero : TimeFrame where
  minuteBCD := 0
  hourBCD := 0
  weekdayBCD := 0
  dateBCD := 0
  monthBCD := 0
  yearBCD := 0
  dstActive := false
  dstImminent := false
  dut1PositiveMs := 0
  dut1NegativeMs := 0
  leapSecondIndicator := .zero
  frameLengthSeconds := 0
  epochSeconds := 0

/-- The five output registers, which is all that `READ` returns (10_state.md R30, 45_output_handoff.md R236). -/
structure Outputs where
  timeAvailable : Bool
  lastFrame : TimeFrame
  parityOutcome : ParityOutcome
  leapSecondIndicator : LeapIndicator
  frameLengthSeconds : Byte
  deriving DecidableEq, Repr

/-- The state: every register of 10_state.md's summary table, and three fields of the model's own. -/
structure State where
  /-- R20, signed. -/
  paddingMs : BitVec 16
  /-- R20; true = 1 = high. -/
  carrierOffLevel : Bool
  /-- R22, R23. -/
  channelA : Channel
  /-- R22, R23. -/
  channelB : Channel
  /-- R24, R25. -/
  bitPointer : Pointer
  /-- R26. -/
  lastPulseStartMillis : Millis
  /-- R27. -/
  pendingPulseStartMillis : Millis
  /-- R28. -/
  bOnlyFlag : Bool
  /-- R29, hidden from the consumer. -/
  frameReady : Bool
  /-- R31. -/
  timeAvailable : Bool
  /-- R32. -/
  parityOutcome : ParityOutcome
  /-- R34; also named `framesReceivedSeconds`. -/
  frameLengthSeconds : Byte
  /-- R35. -/
  leapSecondIndicator : LeapIndicator
  /-- R33. -/
  lastFrame : TimeFrame
  /-- The model's own: the transactions issued and not yet performed, oldest first (R7, R235). DESIGN CHOICE, safe;
  log 1. -/
  inbox : List Transaction
  /-- The model's own: the copies `READ` has handed to the consumer, newest first (R236). DESIGN CHOICE, safe;
  log 8. -/
  readings : List Outputs
  /-- The model's own: which value of `Config.epochDraw` the current frame has, should its `epochSeconds` be unspecified
  (R219); each FrameReset moves on to the next. DESIGN CHOICE, safe; log 7, log 17. -/
  draws : Nat
  deriving DecidableEq, Repr

/-- A step never faults: "The block raises no exception, takes no trap" (60_exceptions.md R250), and "Nothing in the
block has the treatment `fault`" (93_implementation_defined.md). So there is no reason for a fault (DEDUCED, safe;
log 15). -/
inductive Fault where
  deriving DecidableEq, Repr

/-- The reasons for a refusal. None of them can be reached: `step` always answers a next state. -/
inductive Refusal where
  /-- An operation without a meaning; raised by an arm of `exec` that has none (there is no such arm). Safe. -/
  | notModelled (mnemonic : String)
  /-- A channel access with an index outside 0..63 or a chunk width outside 1..8, treatment `refuse` of
  93_implementation_defined.md U3; raised by `answer` when a primitive of Ops.lean is called outside its side
  conditions, which no call of the block does (20_memory.md R70). Safe; log 14. -/
  | channelRange
  /-- An operation word that no row of the opcode map matches; raised by `step`, and no operation word is such
  (30_encoding.md R95). Safe; log 15. -/
  | noOperation
  deriving DecidableEq, Repr

/-- The state after `RESET(0, 1)`, the defaults (10_state.md R37, 70_reset_and_hazards.md R280 (c)), with nothing
issued, nothing read and the first free value ahead (DESIGN CHOICE; log 4). -/
def State.reset : State where
  paddingMs := Config.defaultPaddingMs
  carrierOffLevel := Config.defaultCarrierOffLevel
  channelA := 0xFFFFFFFFFFFFFFFF#64
  channelB := 0#64
  bitPointer := 0#6
  lastPulseStartMillis := 0#32
  pendingPulseStartMillis := 0#32
  bOnlyFlag := false
  frameReady := false
  timeAvailable := false
  parityOutcome := .ok
  frameLengthSeconds := 0#8
  leapSecondIndicator := .zero
  lastFrame := TimeFrame.zero
  inbox := []
  readings := []
  draws := 0

end Sys2Proof.Machine
end

