-- ==== Sys2Proof/Machine/Tables.lean ====
section
/-! DEFINITION. The constants of 00_scope.md R10 that the operations use, the field table, and the parameter tables with the
spec's values (R11). -/

namespace Sys2Proof.Config

/-- `CODE_UNIT_MS` (R10, 40_pulse_classifier.md R133). -/
abbrev codeUnitMs : Int := 100

/-- `B_ONLY_WINDOW_MS` (R10, 40_pulse_classifier.md R131). -/
abbrev bOnlyWindowMs : Nat := 300

/-- `MARKER_PATTERN`, `01111110` (R10, 42_marker_detector.md R172). -/
abbrev markerPattern : Byte := 0x7E#8

/-- `MIN_FRAME_LENGTH` (R10, 43_field_parity.md R192). -/
abbrev minFrameLength : Nat := 58

/-- `EPOCH_BASE_YEAR` (R10, 44_calendar.md R213). -/
abbrev epochBaseYear : Nat := 1970

/-- `TWO_DIGIT_YEAR_OFFSET` (R10, 44_calendar.md R212). -/
abbrev twoDigitYearOffset : Nat := 30

/-- `DUT1_UNIT_MS` (R10, 43_field_parity.md R194). -/
abbrev dut1UnitMs : Nat := 100

/-- First index of the DUT1 positive window of channel B (20_memory.md R71, 43_field_parity.md R194). -/
abbrev dut1PositiveStart : Nat := 1

/-- First index of the DUT1 negative window of channel B (20_memory.md R71, 43_field_parity.md R194). -/
abbrev dut1NegativeStart : Nat := 9

/-- Width of each DUT1 window (43_field_parity.md R194). -/
abbrev dut1Width : Nat := 8

/-- `FIELD_TABLE` (43_field_parity.md R190, 20_memory.md R72). DEDUCED: at pointer 58 the year starts at index 16 of
channel A, as R72's column and 30_encoding.md R101 have it, although R71's table calls A 1..16 'not read by the block'.
Unsafe; log 23. -/
def fieldSpec : Field → ChunkSpec
  | .year => { offset := 42, width := 8 }
  | .month => { offset := 34, width := 5 }
  | .date => { offset := 29, width := 6 }
  | .weekday => { offset := 23, width := 3 }
  | .hour => { offset := 20, width := 6 }
  | .minute => { offset := 14, width := 7 }
  | .endMarker => { offset := 7, width := 8 }

/-- `PARITY_TABLE`'s default rows in checking order (43_field_parity.md R186, R187).
UNVERIFIED: the positions and the coverage come from general knowledge of the MSF code, by the spec's own
mark. Unsafe; log 9. -/
def defaultParityTable : List ParityGroup :=
  [ { failure := .yearFailed, chunks := [fieldSpec .year], parityOffset := 5 },
    { failure := .monthFailed, chunks := [fieldSpec .month, fieldSpec .date], parityOffset := 4 },
    { failure := .weekdayFailed, chunks := [fieldSpec .weekday], parityOffset := 3 },
    { failure := .hourFailed, chunks := [fieldSpec .hour, fieldSpec .minute], parityOffset := 2 } ]

/-- `MONTH_DAYS` (44_calendar.md R215). UNVERIFIED: the Gregorian calendar, by the spec's own mark. Unsafe; log 11. -/
def defaultMonthDays : List Nat := [31, 28, 31, 30, 31, 30, 31, 31, 30, 31, 30, 31]

/-- The parameters with the values the spec gives as defaults. UNVERIFIED: the two status bit offsets
(43_field_parity.md R193) come from general knowledge of the MSF code, by the spec's own mark. Unsafe; log 10. -/
def params : Params where
  parityTable := defaultParityTable
  dstActiveOffset := 1
  dstImminentOffset := 6
  monthDays := defaultMonthDays

end Sys2Proof.Config
end

