-- ==== Sys2Proof/Machine/Operands.lean ====
section
/-! DEFINITION. The two stages that turn an `EDGE` into an operation word (30_encoding.md R92 to R94), the encodings of
the enumerated registers, and the event that brings about a given operation word. -/

namespace Sys2Proof.Machine

/-- Stage 1: is the event a pulse start (30_encoding.md R92)? -/
def isStart (s : State) (e : Edge) : Bool := e.level == s.carrierOffLevel

/-- The time since the most recent pulse start, mod 2^32 (40_pulse_classifier.md R132). -/
def measuredMs (s : State) (t : Millis) : Millis := t - s.pendingPulseStartMillis

/-- `floor((measuredMs + paddingMs) / 100)` on mathematical integers (40_pulse_classifier.md R133). Lean's integer
division by a positive number rounds toward minus infinity. -/
def lengthCodeOf (measured : Millis) (padding : BitVec 16) : Int :=
  ((measured.toNat : Int) + padding.toInt) / Config.codeUnitMs

/-- The length code of a pulse that ends at `t` (30_encoding.md R93). -/
def lengthCode (s : State) (t : Millis) : Int := lengthCodeOf (measuredMs s t) s.paddingMs

/-- `min(max(lengthCode, 0), 7)` (30_encoding.md R94). -/
def saturateCode (c : Int) : Nat := (min (max c 0) 7).toNat

/-- The operation word of a pulse end with length code `c` and flag `b` (30_encoding.md R94). -/
def pulseEndOpword (c : Int) (b : Bool) : Opword := BitVec.ofNat 5 (2 * saturateCode c + b.toNat)

/-- The operation word that an event produces in a state (30_encoding.md R94). -/
def opwordOf (s : State) (e : Edge) : Opword :=
  if isStart s e then 0x10#5 else pulseEndOpword (lengthCode s e.timestampMillis) s.bOnlyFlag

/-- The operation an event decodes to in a state (30_encoding.md R95). -/
def fetchInstr (s : State) (e : Edge) : Decoded := decodeOpword (opwordOf s e) e.timestampMillis

/-- `parityOutcome`'s 3-bit code (10_state.md R32). -/
def parityCode : ParityOutcome → BitVec 3
  | .ok => 0#3
  | .yearFailed => 1#3
  | .monthFailed => 2#3
  | .weekdayFailed => 3#3
  | .hourFailed => 4#3

/-- `leapSecondIndicator`'s 2-bit two's complement pattern (10_state.md R35). -/
def leapCode : LeapIndicator → BitVec 2
  | .minusOne => 0b11#2
  | .zero => 0b00#2
  | .plusOne => 0b01#2

/-- The padding under which a pulse of length code `c` can be produced: the state's own where some duration gives the
code (or, for 7, a code of 7 or more), else 0. A large positive padding lifts even a pulse of no length above the
wanted code (40_pulse_classifier.md R133). -/
def paddingFor (s : State) (c : Nat) : BitVec 16 :=
  if c = 7 ∨ s.paddingMs.toInt < 100 * (c : Int) + 100 then s.paddingMs else 0#16

/-- A duration that the classifier turns into length code `c` under that padding: the shortest one. -/
def durationFor (padding : BitVec 16) (c : Nat) : Nat := (100 * (c : Int) - padding.toInt).toNat

/-- What the platform does so that the next step performs the operation of an operation word: for a pulse start, one
`EDGE` at the operand's time; for a pulse end, one `EDGE` of the other level whose distance from the pending pulse
start gives the length code, with `bOnlyFlag` as the word's field `b` has it and the padding of `paddingFor`. DESIGN
CHOICE, safe: it stands for input from outside the machine and is no part of a step (log 3). -/
def State.issueOpword (s : State) (w : Opword) (t : Millis) : State :=
  if opwordS w then
    { s with inbox := .edge { level := s.carrierOffLevel, timestampMillis := t } :: s.inbox }
  else
    let c := (opwordCode w).toNat
    let p := paddingFor s c
    { s with
      paddingMs := p
      bOnlyFlag := opwordB w
      inbox := .edge { level := !s.carrierOffLevel,
                       timestampMillis := s.pendingPulseStartMillis + BitVec.ofNat 32 (durationFor p c) } :: s.inbox }

end Sys2Proof.Machine
end

