-- ==== Sys2Proof/Machine/Flags.lean ====
section
/-! DEFINITION. Every computation and update of the three flags `bOnlyFlag`, `frameReady` and `timeAvailable`, and the
bit pair of a data symbol. -/

namespace Sys2Proof.Machine

/-- "less than 300 ms after the previous pulse start", strictly, mod 2^32 (40_pulse_classifier.md R131). -/
def bOnlyOf (last t : Millis) : Bool := decide ((t - last).toNat < Config.bOnlyWindowMs)

/-- PSTART's writes: the flag and the pending start (40_pulse_classifier.md R131). -/
def State.latchStart (s : State) (t : Millis) : State :=
  { s with bOnlyFlag := bOnlyOf s.lastPulseStartMillis t, pendingPulseStartMillis := t }

/-- The write of the common prologue of every pulse end (40_pulse_classifier.md R134, 45_output_handoff.md R230). The
measurement and the classification of the prologue are done in Operands.lean before the operation is known, and
read nothing that this write changes (DEDUCED, safe; log 21). -/
def State.prologue (s : State) : State := { s with timeAvailable := false }

/-- SYM5's hand-off (45_output_handoff.md R231). -/
def State.handOff (s : State) : State :=
  { s with
    timeAvailable := if s.frameReady then true else s.timeAvailable
    frameReady := if s.frameReady then false else s.frameReady }

/-- The bit pair (A, B) of a data symbol (30_encoding.md R100, 41_bit_accumulator.md R153). -/
def bitPair : DataSymbol → Bool → Bool × Bool
  | .one, false => (false, false)
  | .one, true => (false, true)
  | .two, _ => (true, false)
  | .three, _ => (true, true)

/-- The pointer update of a data symbol, a number in 0..64: stay on the slot when B-only, else advance
(41_bit_accumulator.md R154). -/
def nextPointer (flagged : Bool) (p : Pointer) : Nat := if flagged then p.toNat else p.toNat + 1

end Sys2Proof.Machine
end

