-- ==== Sys2Proof/Machine/Ops.lean ====
section
/-! DEFINITION. The channel primitives (20_memory.md R64 to R67), the shared register updates, and the port. The block
takes no exception and returns from none (60_exceptions.md R250), so there is no operation for either. -/

namespace Sys2Proof.Machine

/-- The bit at an index of a channel, index 0 the most significant bit of the 64-bit view (20_memory.md R62). -/
def bitAt (ch : Channel) (i : Nat) : Bool := ch.getMsbD i

/-- BitRead, defined for an index in 0..63 (20_memory.md R64). -/
def bitRead (ch : Channel) (i : Nat) : Option Bool :=
  if i < Config.channelBits then some (bitAt ch i) else none

/-- The channel with one bit assigned, for an index in 0..63. -/
def assignBit (ch : Channel) (i : Nat) (v : Bool) : Channel :=
  let mask : Channel := 1#64 <<< (63 - i)
  if v then ch ||| mask else ch &&& ~~~mask

/-- BitWrite, defined for an index in 0..63 (20_memory.md R65). -/
def bitWrite (ch : Channel) (i : Nat) (v : Bool) : Option Channel :=
  if i < Config.channelBits then some (assignBit ch i v) else none

/-- What ChunkRead returns: the byte and the count of set bits (20_memory.md R66). -/
structure Chunk where
  value : Byte
  count : Nat
  deriving DecidableEq, Repr

/-- The bits at indices `s`, `s`+1, ..., `s`+`w`-1, in that order. -/
def bitsFrom (ch : Channel) (s : Nat) : Nat → List Bool
  | 0 => []
  | w + 1 => bitAt ch s :: bitsFrom ch (s + 1) w

/-- The number whose binary digits are the bits, the first most significant, after the digits of `acc`. -/
def numberOf (acc : Nat) : List Bool → Nat
  | [] => acc
  | b :: bs => numberOf (2 * acc + b.toNat) bs

/-- The number of set bits. -/
def onesOf : List Bool → Nat
  | [] => 0
  | b :: bs => b.toNat + onesOf bs

/-- ChunkRead, defined for 1 <= `w` <= 8 and `s` + `w` <= 64: right-aligned, the first bit read most significant
(20_memory.md R66). -/
def chunkRead (ch : Channel) (s w : Nat) : Option Chunk :=
  if 1 ≤ w ∧ w ≤ 8 ∧ s + w ≤ Config.channelBits then
    let bits := bitsFrom ch s w
    some { value := BitVec.ofNat 8 (numberOf 0 bits), count := onesOf bits }
  else none

/-- A chunk that starts `offset` back from the pointer `p` (43_field_parity.md R190). -/
def chunkBack (ch : Channel) (p : Nat) (c : Config.ChunkSpec) : Option Chunk :=
  if c.offset ≤ p then chunkRead ch (p - c.offset) c.width else none

/-- The single bit `offset` back from the pointer `p` (43_field_parity.md R186, R193). -/
def bitBack (ch : Channel) (p offset : Nat) : Option Bool :=
  if offset ≤ p then bitRead ch (p - offset) else none

/-- FillChannel (20_memory.md R67). -/
def fillChannel (v : Bool) : Channel := if v then BitVec.allOnes 64 else 0#64

/-- AcceptPulse (41_bit_accumulator.md R150). -/
def State.acceptPulse (s : State) : State := { s with lastPulseStartMillis := s.pendingPulseStartMillis }

/-- The model's own step to the next free value, made for each frame begun (44_calendar.md R219; log 7, log 17). -/
def State.countDraw (s : State) : State := { s with draws := s.draws + 1 }

/-- FrameReset (41_bit_accumulator.md R151). A frame that begins has a free value of its own; of the block's registers
these three are all that is written. -/
def State.frameReset (s : State) : State :=
  { s with bitPointer := 0#6, channelA := fillChannel true, channelB := fillChannel false }.countDraw

/-- The registers the write of a data symbol leaves: the pointer and the two channels (41_bit_accumulator.md R155). -/
def State.setSlot (s : State) (p : Pointer) (a b : Channel) : State :=
  { s with bitPointer := p, channelA := a, channelB := b }

/-- The pointer and both bits of a data symbol written, for `p` in 0..63 (41_bit_accumulator.md R155). -/
def writeSlot (s : State) (p : Nat) (a b : Bool) : Option State := do
  let chA ← bitWrite s.channelA p a
  let chB ← bitWrite s.channelB p b
  return s.setSlot (BitVec.ofNat 6 p) chA chB

/-- The outcome of an operation made of partial primitives: the state it leaves, or the refusal of an access out of
range, which never happens (20_memory.md R70). -/
def answer : Option State → Host.Outcome State Fault Refusal
  | some s => .next s
  | none => .refused .channelRange

/-- The five output registers as they stand (45_output_handoff.md R236). -/
def State.outputs (s : State) : Outputs where
  timeAvailable := s.timeAvailable
  lastFrame := s.lastFrame
  parityOutcome := s.parityOutcome
  leapSecondIndicator := s.leapSecondIndicator
  frameLengthSeconds := s.frameLengthSeconds

/-- `READ()`: hand a copy of the outputs to the consumer; no register of the block changes (45_output_handoff.md
R236). -/
def State.readOutputs (s : State) : State := { s with readings := s.outputs :: s.readings }

/-- `RESET(paddingMs, carrierOffLevel)` (70_reset_and_hazards.md R280). What is issued and what the consumer has read
are not the block's and stay. -/
def State.rearm (s : State) (p : BitVec 16) (c : Bool) : State :=
  let s' := { s with paddingMs := p, carrierOffLevel := c }
  { s'.frameReset with
    lastPulseStartMillis := 0#32
    pendingPulseStartMillis := 0#32
    bOnlyFlag := false
    frameReady := false
    timeAvailable := false
    parityOutcome := .ok
    frameLengthSeconds := 0#8
    leapSecondIndicator := .zero
    lastFrame := TimeFrame.zero }

/-- The state with these transactions waiting. -/
def State.withInbox (s : State) (txs : List Transaction) : State := { s with inbox := txs }

/-- The transaction to perform and the state without it; nothing when none is issued. A transaction is "consumed once,
not retained" (10_state.md R38). -/
def takeTransaction (s : State) : Option (Transaction × State) :=
  match s.inbox with
  | [] => none
  | tx :: rest => some (tx, s.withInbox rest)

end Sys2Proof.Machine
end

