-- ==== Sys2Proof/Machine/Calendar.lean ====
section
/-! DEFINITION. The Calendar Assembler: pure functions on unbounded natural numbers (44_calendar.md R220). -/

namespace Sys2Proof.Machine

/-- `tens*10 + ones`, with no check of the nibbles (44_calendar.md R210). -/
def bcdToDecimal (b : Byte) : Nat := b.toNat / 16 * 10 + b.toNat % 16

/-- Years since 1970 (44_calendar.md R212). -/
def offsetYear (y : Nat) : Nat := if y ≤ 99 then y + Config.twoDigitYearOffset else y

/-- The leap-year test, applied to the calendar year 1970 + `o` (44_calendar.md R213). -/
def isLeap (o : Nat) : Bool :=
  let y := Config.epochBaseYear + o
  y % 4 == 0 && (y % 100 != 0 || y % 400 == 0)

/-- The days of month `i`, 1..12, in offset year `o`, by the table of the parameters (44_calendar.md R215); it is used
for `i` in 1..12 only. -/
def daysInMonth (P : Config.Params) (i o : Nat) : Nat :=
  if i = 2 ∧ isLeap o then 29 else P.monthDays.getD (i - 1) 0

/-- The number of `i` in 0..`o`-1 with `isLeap i` (44_calendar.md R216). -/
def leapsBefore : Nat → Nat
  | 0 => 0
  | o + 1 => leapsBefore o + (isLeap o).toNat

/-- The days of the months 1..`n` of offset year `o` (44_calendar.md R216). -/
def daysOfMonths (P : Config.Params) (o : Nat) : Nat → Nat
  | 0 => 0
  | n + 1 => daysOfMonths P o n + daysInMonth P (n + 1) o

/-- EpochSeconds (44_calendar.md R216); `none` is `UNSPECIFIED(u64)`, for a month outside 1..12 or date 0 (R219). -/
def epochSeconds (P : Config.Params) (yearBCD monthBCD dateBCD hourBCD minuteBCD : Byte) : Option Nat :=
  let o := offsetYear (bcdToDecimal yearBCD)
  let mo := bcdToDecimal monthBCD
  let d := bcdToDecimal dateBCD
  let h := bcdToDecimal hourBCD
  let mi := bcdToDecimal minuteBCD
  if mo < 1 ∨ mo > 12 ∨ d < 1 then none
  else
    let days := o * 365 + leapsBefore o + daysOfMonths P o (mo - 1) + (d - 1)
    some (days * 86400 + h * 3600 + mi * 60)

end Sys2Proof.Machine
end

