-- ==== Sys2Proof/Machine/Parity.lean ====
section
/-! DEFINITION. The Field Extractor and Parity Validator (43_field_parity.md). `p` is `bitPointer` at the match. -/

namespace Sys2Proof.Machine

/-- The number of set bits of a list of data chunks of channel A (43_field_parity.md R187). -/
def chunkOnes (chA : Channel) (p : Nat) : List Config.ChunkSpec → Option Nat
  | [] => some 0
  | c :: cs => do
    let k ← chunkBack chA p c
    let n ← chunkOnes chA p cs
    return k.count + n

/-- A group's total: its data bits and its parity bit (43_field_parity.md R185, R187). -/
def groupTotal (chA chB : Channel) (p : Nat) (g : Config.ParityGroup) : Option Nat := do
  let n ← chunkOnes chA p g.chunks
  let b ← bitBack chB p g.parityOffset
  return n + b.toNat

/-- The failure code of the first group, in table order, whose total is odd; `some none` when every group passes
(43_field_parity.md R187). -/
def firstFailure (chA chB : Channel) (p : Nat) : List Config.ParityGroup → Option (Option ParityOutcome)
  | [] => some none
  | g :: gs => do
    let total ← groupTotal chA chB p g
    if total % 2 = 1 then return some g.failure
    else firstFailure chA chB p gs

/-- A field of channel A as its byte (43_field_parity.md R190). -/
def fieldValue (s : State) (f : Config.Field) : Option Byte :=
  (chunkBack s.channelA s.bitPointer.toNat (Config.fieldSpec f)).map Chunk.value

/-- A DUT1 counter: 100 for each set bit of an 8-bit window of channel B at an absolute index (43_field_parity.md
R194). -/
def dut1Counter (s : State) (start : Nat) : Option (BitVec 16) :=
  (chunkRead s.channelB start Config.dut1Width).map fun k => BitVec.ofNat 16 (k.count * Config.dut1UnitMs)

/-- The new TimeFrame with the given `epochSeconds` (43_field_parity.md R191). -/
def extractFrame (P : Config.Params) (s : State) (epoch : BitVec 64) : Option TimeFrame := do
  let p := s.bitPointer.toNat
  let year ← fieldValue s .year
  let month ← fieldValue s .month
  let date ← fieldValue s .date
  let weekday ← fieldValue s .weekday
  let hour ← fieldValue s .hour
  let minute ← fieldValue s .minute
  let active ← bitBack s.channelB p P.dstActiveOffset
  let imminent ← bitBack s.channelB p P.dstImminentOffset
  let positive ← dut1Counter s Config.dut1PositiveStart
  let negative ← dut1Counter s Config.dut1NegativeStart
  return {
    minuteBCD := minute
    hourBCD := hour
    weekdayBCD := weekday
    dateBCD := date
    monthBCD := month
    yearBCD := year
    dstActive := active
    dstImminent := imminent
    dut1PositiveMs := positive
    dut1NegativeMs := negative
    leapSecondIndicator := s.leapSecondIndicator
    frameLengthSeconds := s.frameLengthSeconds
    epochSeconds := epoch }

/-- The frame's `epochSeconds` where the spec gives it one (44_calendar.md R216). -/
def frameEpoch (P : Config.Params) (f : TimeFrame) : Option Nat :=
  epochSeconds P f.yearBCD f.monthBCD f.dateBCD f.hourBCD f.minuteBCD

/-- The commit: `lastFrame` written whole (45_output_handoff.md R233). -/
def State.commitFrame (s : State) (f : TimeFrame) : State := { s with lastFrame := f }

/-- ExtractAndAssemble (43_field_parity.md R191). Where the spec gives no `epochSeconds`, that one field is a free value
and every other is written as usual (44_calendar.md R219; log 7). -/
def extractAndAssemble (P : Config.Params) (s : State) : Option State := do
  let f ← extractFrame P s 0#64
  match frameEpoch P f with
  | some n => return s.commitFrame { f with epochSeconds := BitVec.ofNat 64 n }
  | none => return s.commitFrame { f with epochSeconds := Config.epochDraw s.draws }

/-- A failed validation's writes (43_field_parity.md R189). -/
def State.failParity (s : State) (code : ParityOutcome) : State :=
  { s with parityOutcome := code, frameReady := false }

/-- A passed validation's write; `frameReady` keeps its value (43_field_parity.md R188). -/
def State.passParity (s : State) : State := { s with parityOutcome := .ok }

/-- ParityCheck (43_field_parity.md R187, R192). -/
def parityCheck (P : Config.Params) (s : State) : Option State := do
  match ← firstFailure s.channelA s.channelB s.bitPointer.toNat P.parityTable with
  | some code => return s.failParity code
  | none =>
    if Config.minFrameLength ≤ s.frameLengthSeconds.toNat then extractAndAssemble P s.passParity
    else return s.passParity

end Sys2Proof.Machine
end

