-- ==== Sys2Proof/Machine/Marker.lean ====
section
/-! DEFINITION. The Marker and Frame-Length Detector (42_marker_detector.md). -/

namespace Sys2Proof.Machine

/-- The leap-second policy (42_marker_detector.md R175). -/
def leapPolicy (length : Nat) : LeapIndicator :=
  if length = 58 then .minusOne else if length = 60 then .plusOne else .zero

/-- The gate on the pointer (42_marker_detector.md R171). -/
def gateOpen (p : Nat) : Bool := decide (Config.markerGateMin ≤ p) && decide (p ≤ Config.markerGateMax)

/-- What a match records before the parity validation (42_marker_detector.md R173, R174, R175). -/
def State.recordMatch (s : State) : State :=
  { s with
    frameLengthSeconds := BitVec.ofNat 8 s.bitPointer.toNat
    leapSecondIndicator := leapPolicy s.bitPointer.toNat
    frameReady := true }

/-- MarkerCheck (42_marker_detector.md R172); no match changes nothing (R176). -/
def markerCheck (P : Config.Params) (s : State) : Option State := do
  let m ← chunkBack s.channelA s.bitPointer.toNat (Config.fieldSpec .endMarker)
  if m.value = Config.markerPattern then parityCheck P s.recordMatch else return s

end Sys2Proof.Machine
end

