-- ==== Sys2Proof/Machine/Classifier.lean ====
section
/-! DEFINITION. The operations of the Pulse Classifier (40_pulse_classifier.md): PSTART, DISCARD0, SYM4, LONG. -/

namespace Sys2Proof.Machine

/-- A discarded pulse end: the prologue and nothing else (40_pulse_classifier.md R134, 30_encoding.md R96). -/
def discardPulse (s : State) : State := s.prologue

/-- PSTART (40_pulse_classifier.md R131). -/
def execPstart (t : Millis) (s : State) : Host.Outcome State Fault Refusal := .next (s.latchStart t)

/-- DISCARD0 (40_pulse_classifier.md R136). -/
def execDiscard0 (s : State) : Host.Outcome State Fault Refusal := .next (discardPulse s)

/-- SYM4 (40_pulse_classifier.md R137). -/
def execSym4 (s : State) : Host.Outcome State Fault Refusal := .next (discardPulse s)

/-- LONG (40_pulse_classifier.md R138). -/
def execLong (s : State) : Host.Outcome State Fault Refusal := .next (discardPulse s)

end Sys2Proof.Machine
end

