-- ==== Sys2Proof/Machine/Accumulator.lean ====
section
/-! DEFINITION. The operations of the Bit Channel Accumulator (41_bit_accumulator.md): SYM1, SYM1B, SYM2, SYM3, SYM5. -/

namespace Sys2Proof.Machine

/-- The body the four data operations share (41_bit_accumulator.md R161): prologue, AcceptPulse, pointer update,
overflow test (R156), write (R155), and MarkerCheck under its gate. `flagged` is the B-only flag as the operation
word carries it, `bOnlyFlag` at the start of the transaction (30_encoding.md R94; DEDUCED, safe; log 6). -/
def dataSymbol (P : Config.Params) (sym : DataSymbol) (flagged : Bool) (s : State) : Option State :=
  let p := nextPointer flagged s.bitPointer
  if 63 < p then some s.prologue.acceptPulse.frameReset
  else do
    let written ← writeSlot s.prologue.acceptPulse p (bitPair sym flagged).1 (bitPair sym flagged).2
    if gateOpen p then markerCheck P written else return written

/-- SYM1 (41_bit_accumulator.md R157). -/
def execSym1 (s : State) : Host.Outcome State Fault Refusal := answer (dataSymbol Config.params .one false s)

/-- SYM1B (41_bit_accumulator.md R158). -/
def execSym1b (s : State) : Host.Outcome State Fault Refusal := answer (dataSymbol Config.params .one true s)

/-- SYM2 (41_bit_accumulator.md R159). -/
def execSym2 (b : Bool) (s : State) : Host.Outcome State Fault Refusal := answer (dataSymbol Config.params .two b s)

/-- SYM3 (41_bit_accumulator.md R160). -/
def execSym3 (b : Bool) (s : State) : Host.Outcome State Fault Refusal := answer (dataSymbol Config.params .three b s)

/-- SYM5 (41_bit_accumulator.md R152). -/
def execSym5 (s : State) : Host.Outcome State Fault Refusal := .next s.prologue.acceptPulse.handOff.frameReset

end Sys2Proof.Machine
end

