-- ==== Sys2Proof/Machine/Dispatch.lean ====
section
/-! DEFINITION. The meaning of each operation, one arm a constructor (30_encoding.md R95, R98). -/

namespace Sys2Proof.Machine

def exec (i : Instr) (s : State) : Host.Outcome State Fault Refusal :=
  match i with
  | .pstart t => Sys2Proof.Machine.execPstart t s
  | .discard0 => Sys2Proof.Machine.execDiscard0 s
  | .sym1 => Sys2Proof.Machine.execSym1 s
  | .sym1b => Sys2Proof.Machine.execSym1b s
  | .sym2 b => Sys2Proof.Machine.execSym2 b s
  | .sym3 b => Sys2Proof.Machine.execSym3 b s
  | .sym4 => Sys2Proof.Machine.execSym4 s
  | .sym5 => Sys2Proof.Machine.execSym5 s
  | .long => Sys2Proof.Machine.execLong s

end Sys2Proof.Machine
end

