-- ==== Sys2Proof/Machine/HostInterface.lean ====
section
/-! DEFINITION. The two transactions that are not an `EDGE`, and a step with no transaction issued. -/

namespace Sys2Proof.Machine

/-- `RESET` (70_reset_and_hazards.md R280): it cannot fail. -/
def performReset (p : BitVec 16) (c : Bool) (s : State) : Host.Outcome State Fault Refusal := .next (s.rearm p c)

/-- `READ` (45_output_handoff.md R236). -/
def performRead (s : State) : Host.Outcome State Fault Refusal := .next s.readOutputs

/-- No transaction is issued: "the state stays as it is for ever" (60_exceptions.md R259; DEDUCED, safe; log 2). -/
def idle (s : State) : Host.Outcome State Fault Refusal := .next s

end Sys2Proof.Machine
end

