-- ==== Sys2Proof/Machine/Step.lean ====
section
/-! DEFINITION. One step: one transaction, whole (00_scope.md R7). -/

namespace Sys2Proof.Machine

/-- Perform the oldest transaction issued: an `EDGE` runs the operation it decodes to (30_encoding.md R98), `RESET` and
`READ` do what R280 and R236 say, and with nothing issued the state stays (R259). -/
def step (s : State) : Host.Outcome State Fault Refusal :=
  match takeTransaction s with
  | none => idle s
  | some (.edge e, s') =>
    match fetchInstr s' e with
    | .instr i => exec i s'
    | .rejected _ => .refused .noOperation
  | some (.reset p c, s') => performReset p c s'
  | some (.read, s') => performRead s'

/-- The state in which the very next step performs the operation of a word of the opcode table: the platform has issued
the `EDGE` that decodes to it (log 3). A word that is no operation word leaves the state as it is. -/
def State.withFetchWord (s : State) (nbits w : Nat) : State :=
  let v := w % 2 ^ nbits
  if rawOpwordWf (v % 256) then s.issueOpword (BitVec.ofNat 5 v) (BitVec.ofNat 32 (v / 256)) else s

end Sys2Proof.Machine
end

