-- ==== Sys2Proof/Machine/Trace.lean ====
section
/-! DEFINITION. The trace notation's expansions into transactions (30_encoding.md R104, R105). -/

namespace Sys2Proof.Machine

/-- `OFF t` (30_encoding.md R104), under the polarity `c` in force. -/
def offAt (c : Bool) (t : Millis) : Transaction := .edge { level := c, timestampMillis := t }

/-- `ON t` (30_encoding.md R104). -/
def onAt (c : Bool) (t : Millis) : Transaction := .edge { level := !c, timestampMillis := t }

/-- `PULSE t d` (30_encoding.md R105); the addition is mod 2^32. -/
def pulseAt (c : Bool) (t d : Millis) : List Transaction := [offAt c t, onAt c (t + d)]

/-- `SEC t a b` (30_encoding.md R105). -/
def secAt (c : Bool) (t : Millis) : Bool → Bool → List Transaction
  | false, false => pulseAt c t 100#32
  | true, false => pulseAt c t 200#32
  | true, true => pulseAt c t 300#32
  | false, true => pulseAt c t 100#32 ++ pulseAt c (t + 200#32) 100#32

/-- One statement's transactions. -/
def expandStmt (c : Bool) : TraceStmt → List Transaction
  | .off t => [offAt c t]
  | .on t => [onAt c t]
  | .reset p c' => [.reset p c']
  | .read => [.read]
  | .pulse t d => pulseAt c t d
  | .minute t => pulseAt c t 500#32
  | .sec t a b => secAt c t a b

/-- The polarity in force after a statement: `RESET p c` sets it (30_encoding.md R104, 70_reset_and_hazards.md R280;
DEDUCED, safe; log 20). -/
def polarityAfter (c : Bool) : TraceStmt → Bool
  | .off _ => c
  | .on _ => c
  | .reset _ c' => c'
  | .read => c
  | .pulse _ _ => c
  | .minute _ => c
  | .sec _ _ _ => c

/-- A trace's transactions, from the polarity in force at its start. -/
def assembleTrace (c : Bool) : List TraceStmt → List Transaction
  | [] => []
  | st :: rest => expandStmt c st ++ assembleTrace (polarityAfter c st) rest

end Sys2Proof.Machine
end

