-- ==== Sys2Proof/Safety.lean ====
section
/-! DEFINITION. The vocabulary the statements use: a safe step, the invariant, and references written from the spec's
tables by other means than the machine's own functions. -/

namespace Sys2Proof.Machine

/-- A step that answers a next state: "Every `EDGE` transaction runs to its end and returns" (60_exceptions.md R250). -/
def Safe (s : State) : Prop := ∃ t, step s = .next t

/-- The next step performs operation `i`, after which `rest` is waiting. -/
def Performs (s : State) (i : Instr) (rest : List Transaction) : Prop :=
  ∃ e, s.inbox = .edge e :: rest ∧ fetchInstr s e = .instr i

/-- The table of 30_encoding.md R100 read by operation: the A-bit, the B-bit, and whether the operation is flagged
B-only; nothing for an operation that is no data symbol. -/
def dataPair : Instr → Option (Bool × Bool × Bool)
  | .sym1 => some (false, false, false)
  | .sym1b => some (false, true, true)
  | .sym2 b => some (true, false, b)
  | .sym3 b => some (true, true, b)
  | .pstart _ => none
  | .discard0 => none
  | .sym4 => none
  | .sym5 => none
  | .long => none

/-- The slot a data symbol writes, by its flag (41_bit_accumulator.md R154); 64 is the overflow. -/
def slotOf (flagged : Bool) (s : State) : Nat := if flagged then s.bitPointer.toNat else s.bitPointer.toNat + 1

/-- The eight bits of the marker, `01111110`, ending at index `p` of channel A (42_marker_detector.md R172). -/
def markerAt (ch : Channel) (p : Nat) : Prop :=
  bitAt ch (p - 7) = false ∧ (∀ k, 1 ≤ k → k ≤ 6 → bitAt ch (p - k) = true) ∧ bitAt ch p = false

/-- A data symbol with A-bit `a` and this flag completes the marker inside the gate: the slot it writes is one of 58..61,
the seven bits before it are `0111111`, and it writes 0 (42_marker_detector.md R171, R172). -/
def completesMarker (a flagged : Bool) (s : State) : Prop :=
  58 ≤ slotOf flagged s ∧ slotOf flagged s ≤ 61 ∧ bitAt s.channelA (slotOf flagged s - 7) = false ∧
    (∀ k, 1 ≤ k → k ≤ 6 → bitAt s.channelA (slotOf flagged s - k) = true) ∧ a = false

/-- The number of set bits at the `n` indices from `lo` on. -/
def onesIn (ch : Channel) (lo n : Nat) : Nat := ((List.range n).filter fun k => bitAt ch (lo + k)).length

/-- Total of the year group (43_field_parity.md R186): `A[p-42..p-35]` and `B[p-5]`. -/
def yearTotal (chA chB : Channel) (p : Nat) : Nat := onesIn chA (p - 42) 8 + (bitAt chB (p - 5)).toNat

/-- Total of the month group (43_field_parity.md R186): `A[p-34..p-24]` and `B[p-4]`. -/
def monthTotal (chA chB : Channel) (p : Nat) : Nat := onesIn chA (p - 34) 11 + (bitAt chB (p - 4)).toNat

/-- Total of the weekday group (43_field_parity.md R186): `A[p-23..p-21]` and `B[p-3]`. -/
def weekdayTotal (chA chB : Channel) (p : Nat) : Nat := onesIn chA (p - 23) 3 + (bitAt chB (p - 3)).toNat

/-- Total of the hour group (43_field_parity.md R186): `A[p-20..p-8]` and `B[p-2]`. -/
def hourTotal (chA chB : Channel) (p : Nat) : Nat := onesIn chA (p - 20) 13 + (bitAt chB (p - 2)).toNat

/-- The outcome of the four groups in the order year, month, weekday, hour: the first odd total is reported
(43_field_parity.md R187). -/
def parityVerdict (chA chB : Channel) (p : Nat) : ParityOutcome :=
  if yearTotal chA chB p % 2 = 1 then .yearFailed
  else if monthTotal chA chB p % 2 = 1 then .monthFailed
  else if weekdayTotal chA chB p % 2 = 1 then .weekdayFailed
  else if hourTotal chA chB p % 2 = 1 then .hourFailed
  else .ok

/-- The `w` bits of a channel from index `s` on as a byte, cut out of the 64-bit view (20_memory.md R62, R66). -/
def sliceByte (ch : Channel) (s w : Nat) : Byte := (ch.extractLsb' (64 - s - w) w).setWidth 8

/-- The TimeFrame of the channels at pointer `p`, field by field from the tables of 20_memory.md R71 and R72, with the
given `epochSeconds` (43_field_parity.md R191). At pointer 58 the year starts at A 16, as R72 has it and R71 does not
(log 23). -/
def frameOf (chA chB : Channel) (p : Nat) (leap : LeapIndicator) (length : Byte) (epoch : BitVec 64) : TimeFrame where
  minuteBCD := sliceByte chA (p - 14) 7
  hourBCD := sliceByte chA (p - 20) 6
  weekdayBCD := sliceByte chA (p - 23) 3
  dateBCD := sliceByte chA (p - 29) 6
  monthBCD := sliceByte chA (p - 34) 5
  yearBCD := sliceByte chA (p - 42) 8
  dstActive := bitAt chB (p - 1)
  dstImminent := bitAt chB (p - 6)
  dut1PositiveMs := BitVec.ofNat 16 (100 * onesIn chB 1 8)
  dut1NegativeMs := BitVec.ofNat 16 (100 * onesIn chB 9 8)
  leapSecondIndicator := leap
  frameLengthSeconds := length
  epochSeconds := epoch

/-- The leap indicator of a frame length (42_marker_detector.md R175). -/
def leapOf (length : Nat) : LeapIndicator :=
  if length = 58 then .minusOne else if length = 60 then .plusOne else .zero

/-- The most recent match produced `lastFrame` (45_output_handoff.md R234 (a)). -/
def MatchAgrees (s : State) : Prop :=
  s.parityOutcome = .ok ∧ 58 ≤ s.frameLengthSeconds.toNat ∧ s.frameLengthSeconds.toNat ≤ 61 ∧
    s.lastFrame.frameLengthSeconds = s.frameLengthSeconds ∧
    s.lastFrame.leapSecondIndicator = s.leapSecondIndicator

/-- A record the block can have produced: the legal values of 10_state.md R33, and an `epochSeconds` that is the
calendar's wherever the calendar gives one. -/
structure Produced (f : TimeFrame) : Prop where
  minute : f.minuteBCD.toNat ≤ 0x7F
  hour : f.hourBCD.toNat ≤ 0x3F
  weekday : f.weekdayBCD.toNat ≤ 0x07
  date : f.dateBCD.toNat ≤ 0x3F
  month : f.monthBCD.toNat ≤ 0x1F
  positive : ∃ k, k ≤ 8 ∧ f.dut1PositiveMs.toNat = 100 * k
  negative : ∃ k, k ≤ 8 ∧ f.dut1NegativeMs.toNat = 100 * k
  lengthMin : 58 ≤ f.frameLengthSeconds.toNat
  lengthMax : f.frameLengthSeconds.toNat ≤ 61
  leap : f.leapSecondIndicator = leapOf f.frameLengthSeconds.toNat
  epoch : ∀ n, epochSeconds Config.params f.yearBCD f.monthBCD f.dateBCD f.hourBCD f.minuteBCD = some n →
    f.epochSeconds.toNat = n

/-- What every transaction leaves true. -/
structure Inv (s : State) : Prop where
  /-- Every slot above the pointer holds the idle pair (41_bit_accumulator.md R162). -/
  idle : ∀ i, i < 64 → s.bitPointer.toNat < i → bitAt s.channelA i = true ∧ bitAt s.channelB i = false
  /-- 10_state.md R29, 45_output_handoff.md R234. -/
  ready : s.frameReady = true → MatchAgrees s
  /-- 45_output_handoff.md R234 (a). -/
  available : s.timeAvailable = true → MatchAgrees s
  /-- `timeAvailable` is set only by SYM5, which leaves a fresh frame, and cleared by the next pulse end
  (45_output_handoff.md R230, R231). -/
  fresh : s.timeAvailable = true →
    s.frameReady = false ∧ s.bitPointer = 0 ∧ s.channelA = BitVec.allOnes 64 ∧ s.channelB = 0
  /-- 10_state.md R34; 93_implementation_defined.md U14. -/
  length : s.frameLengthSeconds = 0 ∨ (58 ≤ s.frameLengthSeconds.toNat ∧ s.frameLengthSeconds.toNat ≤ 61)
  /-- 10_state.md R35, 42_marker_detector.md R175. -/
  leap : s.leapSecondIndicator = leapOf s.frameLengthSeconds.toNat
  /-- 10_state.md R33. -/
  last : s.lastFrame = TimeFrame.zero ∨ Produced s.lastFrame

/-- The same registers of the block: all of the state but what is issued and what the consumer has read. -/
def SameBlock (s t : State) : Prop := { s with inbox := [], readings := [] } = { t with inbox := [], readings := [] }

/-- The transactions without the `READ`s. -/
def dropReads : List Transaction → List Transaction
  | [] => []
  | .read :: rest => dropReads rest
  | .edge e :: rest => .edge e :: dropReads rest
  | .reset p c :: rest => .reset p c :: dropReads rest

/-- A transaction with its timestamp moved by `k`, mod 2^32. -/
def shiftTransaction (k : Millis) : Transaction → Transaction
  | .edge e => .edge { e with timestampMillis := e.timestampMillis + k }
  | .reset p c => .reset p c
  | .read => .read

/-- The state with every time in it moved by `k`, mod 2^32. -/
def shiftTime (k : Millis) (s : State) : State :=
  { s with
    lastPulseStartMillis := s.lastPulseStartMillis + k
    pendingPulseStartMillis := s.pendingPulseStartMillis + k
    inbox := s.inbox.map (shiftTransaction k) }

/-- The operations that send one second with this pair of bits (30_encoding.md R100, R105). -/
def slotOps : Bool × Bool → List Instr
  | (false, false) => [.sym1]
  | (true, false) => [.sym2 false]
  | (true, true) => [.sym3 false]
  | (false, true) => [.sym1, .sym1b]

/-- Operations performed one after the other, stopping at the first that does not answer a next state. -/
def runOps : List Instr → State → Host.Outcome State Fault Refusal
  | [], s => .next s
  | i :: is, s =>
    match exec i s with
    | .next t => runOps is t
    | .fault r => .fault r
    | .refused r => .refused r

/-- The operations that leave the pointer on its slot: a pulse start, a discard, a flagged data symbol (10_state.md
R25). -/
def staysOnSlot : Instr → Bool
  | .pstart _ => true
  | .discard0 => true
  | .sym1 => false
  | .sym1b => true
  | .sym2 b => b
  | .sym3 b => b
  | .sym4 => true
  | .sym5 => false
  | .long => true

/-- A number below 100 as a BCD byte (30_encoding.md R102). -/
def bcd (n : Nat) : Byte := BitVec.ofNat 8 (n / 10 * 16 + n % 10)

/-- Days from 1970-01-01 to a date of the proleptic Gregorian calendar, computed with years that begin in March and eras
of 400 years: a reference independent of 44_calendar.md R216 (R221). -/
def civilDays (year month day : Nat) : Nat :=
  let y := if month ≤ 2 then year - 1 else year
  let era := y / 400
  let yearOfEra := y % 400
  let dayOfYear := (153 * ((month + 9) % 12) + 2) / 5 + (day - 1)
  era * 146097 + (yearOfEra * 365 + yearOfEra / 4 - yearOfEra / 100 + dayOfYear) - 719468

/-- The number of days of a month of the Gregorian calendar. -/
def civilMonthLength (year month : Nat) : Nat :=
  if month = 2 then (if year % 4 = 0 ∧ (year % 100 ≠ 0 ∨ year % 400 = 0) then 29 else 28)
  else if month = 4 ∨ month = 6 ∨ month = 9 ∨ month = 11 then 30
  else 31

end Sys2Proof.Machine
end

