-- ==== Sys2Proof/Certificates/Slice0/Obligations.lean ====
section
/-! DEFINITION. The statements for the provers. -/

open Sys2Proof Sys2Proof.Machine

/-- R280, R37: the step that performs `RESET(p, c)` leaves every register at the value of R37, whatever it was. What is
issued and what has been read are the model's own fields and stay (log 4); the model's own index of free values moves on,
as at every new frame (log 7). -/
def Obligations.ResetTransactionSetsEveryRegister : Prop :=
  ∀ (s : State) (p : BitVec 16) (c : Bool) (rest : List Transaction), s.inbox = .reset p c :: rest →
    step s = .next
      { paddingMs := p, carrierOffLevel := c, channelA := 0xFFFFFFFFFFFFFFFF#64, channelB := 0#64, bitPointer := 0#6,
        lastPulseStartMillis := 0#32, pendingPulseStartMillis := 0#32, bOnlyFlag := false, frameReady := false,
        timeAvailable := false, parityOutcome := .ok, frameLengthSeconds := 0#8, leapSecondIndicator := .zero,
        lastFrame :=
          { minuteBCD := 0, hourBCD := 0, weekdayBCD := 0, dateBCD := 0, monthBCD := 0, yearBCD := 0, dstActive := false,
            dstImminent := false, dut1PositiveMs := 0, dut1NegativeMs := 0, leapSecondIndicator := .zero,
            frameLengthSeconds := 0, epochSeconds := 0 },
        inbox := rest, readings := s.readings, draws := s.draws + 1 }

/-- The model's own choice (log 4): `State.reset` is what the default `RESET(0, 1)` leaves of any state of which nothing
has been read, but for the model's own index of free values, which moves on (log 7). -/
def Obligations.ResetStateIsWhatTheDefaultResetLeaves : Prop :=
  ∀ s : State, s.inbox = [.reset 0#16 true] → s.readings = [] →
    step s = .next { State.reset with draws := s.draws + 1 }

/-- R259, with the model's choice of log 2: with no transaction issued a step leaves the state as it is. -/
def Obligations.NoTransactionLeavesTheState : Prop := ∀ s : State, s.inbox = [] → step s = .next s

/-- R236: `READ` hands over a copy of the five output registers and changes no register. The list that takes the copy is the
model's own field (log 8). -/
def Obligations.ReadCopiesTheOutputsAndChangesNothing : Prop :=
  ∀ (s : State) (rest : List Transaction), s.inbox = .read :: rest →
    step s = .next { s with
      inbox := rest
      readings :=
        { timeAvailable := s.timeAvailable, lastFrame := s.lastFrame, parityOutcome := s.parityOutcome,
          leapSecondIndicator := s.leapSecondIndicator, frameLengthSeconds := s.frameLengthSeconds } :: s.readings }

/-- R90: the 33-bit word carries the level in bit 32 and the timestamp in bits 31..0 and nothing else, and every word is a
legal transaction. -/
def Obligations.EdgeWordCarriesLevelAndTimestamp : Prop :=
  (∀ e : Edge, e.toWord.getLsbD 32 = e.level ∧ e.toWord.extractLsb' 0 32 = e.timestampMillis ∧
    Edge.ofWord e.toWord = e) ∧
  (∀ w : BitVec 33, (Edge.ofWord w).toWord = w) ∧
  (∀ (s : State) (w : BitVec 33), ∃ i, fetchInstr s (Edge.ofWord w) = .instr i)

/-- R95: the nine patterns are disjoint and cover all 32 operation words. -/
def Obligations.OpcodePatternsPartitionTheWords : Prop :=
  opcodeMap.map (fun r => (r.mnemonic, r.mask, r.pattern)) =
    [("PSTART", 0x10, 0x10), ("DISCARD0", 0x1E, 0x00), ("SYM1", 0x1F, 0x02), ("SYM1B", 0x1F, 0x03), ("SYM2", 0x1E, 0x04),
     ("SYM3", 0x1E, 0x06), ("SYM4", 0x1E, 0x08), ("SYM5", 0x1E, 0x0A), ("LONG", 0x1C, 0x0C)] ∧
  ∀ w : Opword, (opcodeMap.filter fun r => r.fits w).length = 1

/-- Decoding is right on words written out from R95 bit by bit, one for each operation. -/
def Obligations.OpcodeTableWordsDecode : Prop :=
  decodeTableWord 8 0b10000 = some (.pstart 0) ∧ decodeTableWord 8 0b00000 = some .discard0 ∧
  decodeTableWord 8 0b00001 = some .discard0 ∧ decodeTableWord 8 0b00010 = some .sym1 ∧
  decodeTableWord 8 0b00011 = some .sym1b ∧ decodeTableWord 8 0b00100 = some (.sym2 false) ∧
  decodeTableWord 8 0b00101 = some (.sym2 true) ∧ decodeTableWord 8 0b00110 = some (.sym3 false) ∧
  decodeTableWord 8 0b00111 = some (.sym3 true) ∧ decodeTableWord 8 0b01000 = some .sym4 ∧
  decodeTableWord 8 0b01010 = some .sym5 ∧ decodeTableWord 8 0b01100 = some .long ∧
  decodeTableWord 8 0b01111 = some .long ∧ decodeTableWord 8 0b100000 = none

/-- R92, R95: a pulse start decodes to PSTART; a pulse end decodes by its length code, written out here as R93 has it. The
last part is R95's table of durations for `paddingMs` = 0. -/
def Obligations.EdgeDecodesByLengthCode : Prop :=
  (∀ (s : State) (e : Edge), e.level = s.carrierOffLevel → fetchInstr s e = .instr (.pstart e.timestampMillis)) ∧
  (∀ (s : State) (e : Edge) (code : Int), e.level ≠ s.carrierOffLevel →
    code = Int.fdiv (((e.timestampMillis - s.pendingPulseStartMillis).toNat : Int) + s.paddingMs.toInt) 100 →
    (code ≤ 0 → fetchInstr s e = .instr .discard0) ∧
    (code = 1 → s.bOnlyFlag = false → fetchInstr s e = .instr .sym1) ∧
    (code = 1 → s.bOnlyFlag = true → fetchInstr s e = .instr .sym1b) ∧
    (code = 2 → fetchInstr s e = .instr (.sym2 s.bOnlyFlag)) ∧
    (code = 3 → fetchInstr s e = .instr (.sym3 s.bOnlyFlag)) ∧
    (code = 4 → fetchInstr s e = .instr .sym4) ∧
    (code = 5 → fetchInstr s e = .instr .sym5) ∧
    (6 ≤ code → fetchInstr s e = .instr .long)) ∧
  (∀ (s : State) (e : Edge) (ms : Nat), e.level ≠ s.carrierOffLevel → s.paddingMs = 0 →
    ms = (e.timestampMillis - s.pendingPulseStartMillis).toNat →
    (ms ≤ 99 → fetchInstr s e = .instr .discard0) ∧
    (100 ≤ ms → ms ≤ 199 → fetchInstr s e = .instr (if s.bOnlyFlag then .sym1b else .sym1)) ∧
    (200 ≤ ms → ms ≤ 299 → fetchInstr s e = .instr (.sym2 s.bOnlyFlag)) ∧
    (300 ≤ ms → ms ≤ 399 → fetchInstr s e = .instr (.sym3 s.bOnlyFlag)) ∧
    (400 ≤ ms → ms ≤ 499 → fetchInstr s e = .instr .sym4) ∧
    (500 ≤ ms → ms ≤ 599 → fetchInstr s e = .instr .sym5) ∧
    (600 ≤ ms → fetchInstr s e = .instr .long))

/-- R93: the duration is a difference mod 2^32, the length code is a floored quotient of an unbounded sum, it lies in
-328..42950000, and both ends occur. -/
def Obligations.LengthCodeIsAFlooredUnboundedQuotient : Prop :=
  (∀ (s : State) (t : Millis),
    (measuredMs s t).toNat = (2 ^ 32 + t.toNat - s.pendingPulseStartMillis.toNat) % 2 ^ 32 ∧
    lengthCode s t * 100 ≤ ((measuredMs s t).toNat : Int) + s.paddingMs.toInt ∧
    ((measuredMs s t).toNat : Int) + s.paddingMs.toInt < lengthCode s t * 100 + 100 ∧
    -328 ≤ lengthCode s t ∧ lengthCode s t ≤ 42950000) ∧
  (∃ (s : State) (t : Millis), lengthCode s t = -328) ∧ (∃ (s : State) (t : Millis), lengthCode s t = 42950000)

/-- R139, last part: truncating the quotient toward zero instead of flooring it selects the same operation for every
input. -/
def Obligations.TruncatingTheQuotientSelectsTheSameOperation : Prop :=
  ∀ (s : State) (e : Edge), e.level ≠ s.carrierOffLevel →
    fetchInstr s e = decodeOpword
      (pulseEndOpword
        (Int.tdiv (((e.timestampMillis - s.pendingPulseStartMillis).toNat : Int) + s.paddingMs.toInt) 100) s.bOnlyFlag)
      e.timestampMillis

/-- A step with an `EDGE` waiting performs the operation it decodes to, on the state without that `EDGE`. -/
def Obligations.StepRunsTheDecodedOperation : Prop :=
  ∀ (s : State) (e : Edge) (rest : List Transaction) (i : Instr), s.inbox = .edge e :: rest →
    fetchInstr s e = .instr i → step s = exec i { s with inbox := rest }

/-- Decode and encode agree, for every operation with every operand. On the bytes of the model's layout (log 5): decoding
the encoding gives the operation. At the `EDGE` port, in every state: the edge that the platform issues for the encoding
(log 3) decodes to the operation, and issuing it changes nothing but the port, the padding and the B-only flag. The last
part: for every operation word of a pulse end the issued edge produces that very word. -/
def Obligations.DecodingTheEncodedOperationGivesItBack : Prop :=
  (∀ i : Instr, i.wf = true → decodeBytes (encode i) = .instr i) ∧
  (∀ (s : State) (i : Instr), i.wf = true → ∃ (e : Edge) (u : State),
    u = s.issueOpword (encodeOpword i) (encodeOperand i) ∧ u.inbox = .edge e :: s.inbox ∧ fetchInstr u e = .instr i ∧
    u = { s with inbox := u.inbox, paddingMs := u.paddingMs, bOnlyFlag := u.bOnlyFlag }) ∧
  (∀ (s : State) (w : Opword) (t : Millis), opwordS w = false → ∃ (e : Edge) (u : State),
    u = s.issueOpword w t ∧ u.inbox = .edge e :: s.inbox ∧ opwordOf u e = w)

/-- The host's fetch (log 3): where a table word decodes, the next step after `withFetchWord` performs exactly the decoded
operation, on the state with the port as it was. -/
def Obligations.FetchedTableWordIsRunNext : Prop :=
  ∀ (s : State) (w : Nat) (i : Instr), decodeTableWord 8 w = some i →
    step (s.withFetchWord 8 w) = exec i { s.withFetchWord 8 w with inbox := s.inbox }

/-- R131: PSTART sets the flag by a strict comparison with 300 of a difference mod 2^32, latches the start, and changes
nothing else. Said of the operation and of the step of a pulse start. -/
def Obligations.PstartLatchesTheStartAndTheFlag : Prop :=
  (∀ (s : State) (t : Millis), exec (.pstart t) s = .next { s with
    bOnlyFlag := decide ((2 ^ 32 + t.toNat - s.lastPulseStartMillis.toNat) % 2 ^ 32 < 300)
    pendingPulseStartMillis := t }) ∧
  (∀ (s : State) (e : Edge) (rest : List Transaction), s.inbox = .edge e :: rest → e.level = s.carrierOffLevel →
    step s = .next { s with
      inbox := rest
      bOnlyFlag := decide ((2 ^ 32 + e.timestampMillis.toNat - s.lastPulseStartMillis.toNat) % 2 ^ 32 < 300)
      pendingPulseStartMillis := e.timestampMillis })

/-- R136, R137, R138: a pulse end whose length code is at most 0, is 4, or is at least 6 is discarded: it clears
`timeAvailable` and changes nothing else. Said of the three operations and of the step that decodes to them. -/
def Obligations.DiscardedPulseOnlyClearsTimeAvailable : Prop :=
  (∀ s : State, exec .discard0 s = .next { s with timeAvailable := false } ∧
    exec .sym4 s = .next { s with timeAvailable := false } ∧ exec .long s = .next { s with timeAvailable := false }) ∧
  (∀ (s : State) (e : Edge) (rest : List Transaction) (code : Int), s.inbox = .edge e :: rest →
    e.level ≠ s.carrierOffLevel →
    code = Int.fdiv (((e.timestampMillis - s.pendingPulseStartMillis).toNat : Int) + s.paddingMs.toInt) 100 →
    (code ≤ 0 ∨ code = 4 ∨ 6 ≤ code) → step s = .next { s with inbox := rest, timeAvailable := false })

/-- R152: SYM5 accepts the pulse, hands over a waiting frame, and starts a new frame; the status registers and `lastFrame`
keep their values. Said of the operation and of the step of a pulse end with length code 5. The model's own index of free
values moves on with the new frame (log 7). -/
def Obligations.Sym5HandsOverAndStartsAFrame : Prop :=
  (∀ s : State, exec .sym5 s = .next { s with
    timeAvailable := s.frameReady
    frameReady := false
    lastPulseStartMillis := s.pendingPulseStartMillis
    bitPointer := 0
    channelA := 0xFFFFFFFFFFFFFFFF#64
    channelB := 0
    draws := s.draws + 1 }) ∧
  (∀ (s : State) (e : Edge) (rest : List Transaction), s.inbox = .edge e :: rest → e.level ≠ s.carrierOffLevel →
    Int.fdiv (((e.timestampMillis - s.pendingPulseStartMillis).toNat : Int) + s.paddingMs.toInt) 100 = 5 →
    step s = .next { s with
      inbox := rest
      timeAvailable := s.frameReady
      frameReady := false
      lastPulseStartMillis := s.pendingPulseStartMillis
      bitPointer := 0
      channelA := 0xFFFFFFFFFFFFFFFF#64
      channelB := 0
      draws := s.draws + 1 })

/-- R156: an unflagged data symbol at pointer 63 writes no bit and resets the frame, and `frameReady` and the outputs but
`timeAvailable` keep their values; a flagged one, or one at a lower pointer, does not overflow: it leaves its slot as the
pointer. The model's own index of free values moves on with the new frame (log 7). -/
def Obligations.OverflowResetsTheFrameOnly : Prop :=
  ∀ (s : State) (i : Instr) (a b f : Bool), dataPair i = some (a, b, f) →
    (f = false → s.bitPointer = 63 → exec i s = .next { s with
      timeAvailable := false
      lastPulseStartMillis := s.pendingPulseStartMillis
      bitPointer := 0
      channelA := 0xFFFFFFFFFFFFFFFF#64
      channelB := 0
      draws := s.draws + 1 }) ∧
    (f = true ∨ s.bitPointer ≠ 63 → ∃ t, exec i s = .next t ∧ t.bitPointer.toNat = slotOf f s)

/-- R154, R155, R100: a data symbol (SYM1, SYM1B, SYM2, SYM3: the operations that have a `dataPair`) that does not
overflow completes, with its bit pair assigned at its slot of the two
channels, every other bit as before, the pointer at the slot, the pulse accepted and `timeAvailable` cleared; the
configuration, the pending start, `bOnlyFlag` and the port keep their values. -/
def Obligations.DataSymbolWritesItsPairAtItsSlot : Prop :=
  ∀ (s : State) (i : Instr) (a b f : Bool), dataPair i = some (a, b, f) → (f = true ∨ s.bitPointer.toNat < 63) →
    ∃ t, exec i s = .next t ∧
      t.bitPointer.toNat = (if f then s.bitPointer.toNat else s.bitPointer.toNat + 1) ∧
      (∀ k, k < 64 → bitAt t.channelA k = if k = t.bitPointer.toNat then a else bitAt s.channelA k) ∧
      (∀ k, k < 64 → bitAt t.channelB k = if k = t.bitPointer.toNat then b else bitAt s.channelB k) ∧
      t.lastPulseStartMillis = s.pendingPulseStartMillis ∧ t.timeAvailable = false ∧
      t.paddingMs = s.paddingMs ∧ t.carrierOffLevel = s.carrierOffLevel ∧
      t.pendingPulseStartMillis = s.pendingPulseStartMillis ∧ t.bOnlyFlag = s.bOnlyFlag ∧
      t.inbox = s.inbox ∧ t.readings = s.readings

/-- R154 and R156 by the register: the step of a pulse end with length code 1, 2 or 3 leaves the pointer where it is when
`bOnlyFlag` is 1, and else advances it, from 63 to 0. -/
def Obligations.PointerFollowsTheBOnlyFlag : Prop :=
  ∀ (s : State) (e : Edge) (rest : List Transaction) (code : Int), s.inbox = .edge e :: rest →
    e.level ≠ s.carrierOffLevel →
    code = Int.fdiv (((e.timestampMillis - s.pendingPulseStartMillis).toNat : Int) + s.paddingMs.toInt) 100 →
    1 ≤ code → code ≤ 3 → ∃ t, step s = .next t ∧
      t.bitPointer.toNat =
        if s.bOnlyFlag then s.bitPointer.toNat else if s.bitPointer.toNat = 63 then 0 else s.bitPointer.toNat + 1

/-- R170, R171, R176: a data symbol that does not overflow and does not complete the marker at a pointer of 58..61 changes
nothing but the slot's two bits, the pointer, `lastPulseStartMillis` and `timeAvailable`. -/
def Obligations.NoMatchLeavesEveryStatusRegister : Prop :=
  ∀ (s : State) (i : Instr) (a b f : Bool), dataPair i = some (a, b, f) → (f = true ∨ s.bitPointer.toNat < 63) →
    ¬ completesMarker a f s →
    ∃ t, exec i s = .next t ∧
      t.bitPointer.toNat = slotOf f s ∧
      (∀ k, k < 64 → bitAt t.channelA k = if k = slotOf f s then a else bitAt s.channelA k) ∧
      (∀ k, k < 64 → bitAt t.channelB k = if k = slotOf f s then b else bitAt s.channelB k) ∧
      t = { s with
        bitPointer := t.bitPointer
        channelA := t.channelA
        channelB := t.channelB
        lastPulseStartMillis := s.pendingPulseStartMillis
        timeAvailable := false }

/-- R173, R175, R187: a data symbol that completes the marker records the slot as the frame length, the leap indicator of
that length whatever the parity, and the verdict of the four groups; `frameReady` says whether they all passed. The groups
are those of R186 (log 9); at pointer 58 the year's first slot is A 16, as R72 has it and R71 does not (log 23). -/
def Obligations.MatchRecordsLengthLeapAndVerdict : Prop :=
  ∀ (s : State) (i : Instr) (a b f : Bool), dataPair i = some (a, b, f) → completesMarker a f s →
    ∃ t, exec i s = .next t ∧
      t.frameLengthSeconds.toNat = slotOf f s ∧
      t.leapSecondIndicator =
        (if slotOf f s = 58 then .minusOne else if slotOf f s = 60 then .plusOne else .zero) ∧
      t.parityOutcome = parityVerdict t.channelA t.channelB (slotOf f s) ∧
      t.frameReady = decide (t.parityOutcome = .ok)

/-- R189: a failed validation records the group's code, clears `frameReady`, and leaves `lastFrame` as it was; the length
and the leap indicator of the failed frame stay recorded. The groups are those of R186 (log 9);
at pointer 58 the year's first slot is A 16, as R72 has it and R71 does not (log 23). -/
def Obligations.ParityFailureKeepsTheLastFrame : Prop :=
  ∀ (s : State) (i : Instr) (a b f : Bool), dataPair i = some (a, b, f) → completesMarker a f s →
    ∀ chA chB : Channel,
      (∀ k, k < 64 → bitAt chA k = if k = slotOf f s then a else bitAt s.channelA k) →
      (∀ k, k < 64 → bitAt chB k = if k = slotOf f s then b else bitAt s.channelB k) →
      parityVerdict chA chB (slotOf f s) ≠ .ok →
      exec i s = .next { s with
        bitPointer := BitVec.ofNat 6 (slotOf f s)
        channelA := chA
        channelB := chB
        lastPulseStartMillis := s.pendingPulseStartMillis
        timeAvailable := false
        frameLengthSeconds := BitVec.ofNat 8 (slotOf f s)
        leapSecondIndicator := leapOf (slotOf f s)
        parityOutcome := parityVerdict chA chB (slotOf f s)
        frameReady := false }

/-- R188, R191, R233, with R216 and R219: a passed validation writes `lastFrame` whole, every field from the channels and
the recorded length and leap indicator; its `epochSeconds` is the calendar's where the calendar gives one, and else the
frame's free value (the free value's form is the model's, log 7). Nothing else changes. The places are those of R186 and R193
(logs 9, 10); at pointer 58 the year's first slot is A 16, as R72 has it and R71 does not (log 23). -/
def Obligations.ParitySuccessCommitsTheFrame : Prop :=
  ∀ (s : State) (i : Instr) (a b f : Bool), dataPair i = some (a, b, f) → completesMarker a f s →
    ∀ chA chB : Channel,
      (∀ k, k < 64 → bitAt chA k = if k = slotOf f s then a else bitAt s.channelA k) →
      (∀ k, k < 64 → bitAt chB k = if k = slotOf f s then b else bitAt s.channelB k) →
      parityVerdict chA chB (slotOf f s) = .ok →
      ∃ epoch : BitVec 64,
        exec i s = .next { s with
          bitPointer := BitVec.ofNat 6 (slotOf f s)
          channelA := chA
          channelB := chB
          lastPulseStartMillis := s.pendingPulseStartMillis
          timeAvailable := false
          frameLengthSeconds := BitVec.ofNat 8 (slotOf f s)
          leapSecondIndicator := leapOf (slotOf f s)
          parityOutcome := .ok
          frameReady := true
          lastFrame := frameOf chA chB (slotOf f s) (leapOf (slotOf f s)) (BitVec.ofNat 8 (slotOf f s)) epoch } ∧
        (∀ n, epochSeconds Config.params (sliceByte chA (slotOf f s - 42) 8) (sliceByte chA (slotOf f s - 34) 5)
            (sliceByte chA (slotOf f s - 29) 6) (sliceByte chA (slotOf f s - 20) 6) (sliceByte chA (slotOf f s - 14) 7)
            = some n → epoch = BitVec.ofNat 64 n) ∧
        (epochSeconds Config.params (sliceByte chA (slotOf f s - 42) 8) (sliceByte chA (slotOf f s - 34) 5)
            (sliceByte chA (slotOf f s - 29) 6) (sliceByte chA (slotOf f s - 20) 6) (sliceByte chA (slotOf f s - 14) 7)
            = none → epoch = Config.epochDraw s.draws)

/-- R187, for every legal table of the parameters: the groups are checked in table order and the first whose total is odd
is reported; when none is odd the validation passes. -/
def Obligations.ValidationReportsTheFirstOddGroup : Prop :=
  ∀ (groups : List Config.ParityGroup) (chA chB : Channel) (p : Nat), (∀ g ∈ groups, g.wf = true) → 58 ≤ p → p ≤ 61 →
    (∃ before g after, groups = before ++ g :: after ∧
      (∀ h ∈ before, ∃ n, groupTotal chA chB p h = some n ∧ n % 2 = 0) ∧
      (∃ n, groupTotal chA chB p g = some n ∧ n % 2 = 1) ∧
      firstFailure chA chB p groups = some (some g.failure)) ∨
    ((∀ h ∈ groups, ∃ n, groupTotal chA chB p h = some n ∧ n % 2 = 0) ∧
      firstFailure chA chB p groups = some none)

/-- R195: from channels whose four groups pass, flipping one bit of a group (a data bit or its parity bit) makes the
validation report that group, and flipping two bits of one group goes undetected. The group of a bit is given by its
distance back from the pointer (R186, log 9); at pointer 58 the year's first slot is A 16, as R72 has it and R71
does not (log 23). -/
def Obligations.OneFlippedBitIsReportedAndTwoAreNot : Prop :=
  ∀ (chA chB : Channel) (p : Nat), 58 ≤ p → p ≤ 61 →
    firstFailure chA chB p Config.params.parityTable = some none →
    ∀ (first last parity : Nat) (code : ParityOutcome),
      ((first, last, parity, code) = (42, 35, 5, .yearFailed) ∨ (first, last, parity, code) = (34, 24, 4, .monthFailed) ∨
        (first, last, parity, code) = (23, 21, 3, .weekdayFailed) ∨ (first, last, parity, code) = (20, 8, 2, .hourFailed)) →
      (∀ i, p - first ≤ i → i ≤ p - last →
        firstFailure (assignBit chA i (!bitAt chA i)) chB p Config.params.parityTable = some (some code)) ∧
      firstFailure chA (assignBit chB (p - parity) (!bitAt chB (p - parity))) p Config.params.parityTable
        = some (some code) ∧
      (∀ i j, p - first ≤ i → i < j → j ≤ p - last →
        firstFailure (assignBit (assignBit chA i (!bitAt chA i)) j (!bitAt chA j)) chB p Config.params.parityTable
          = some none) ∧
      (∀ i, p - first ≤ i → i ≤ p - last →
        firstFailure (assignBit chA i (!bitAt chA i)) (assignBit chB (p - parity) (!bitAt chB (p - parity))) p
          Config.params.parityTable = some none)

/-- R179: the marker cannot end at two different pointer values of the gate in one channel content. -/
def Obligations.MarkerMatchesAtOnePointerOnly : Prop :=
  ∀ (ch : Channel) (p q : Nat), 58 ≤ p → p < q → q ≤ 61 →
    (chunkRead ch (p - 7) 8).map Chunk.value = some 0x7E#8 → (chunkRead ch (q - 7) 8).map Chunk.value ≠ some 0x7E#8

/-- R66, and R70 with log 14 for the calls outside the side conditions: ChunkRead answers under its side conditions and
only then; its byte is the slice of the 64-bit view, right-aligned
with zeros above, its bit `k` is the channel bit `w-1-k` indices after the start, and its count is the number of set
bits. -/
def Obligations.ChunkReadIsARightAlignedSlice : Prop :=
  ∀ (ch : Channel) (s w : Nat),
    (1 ≤ w ∧ w ≤ 8 ∧ s + w ≤ 64 → ∃ k, chunkRead ch s w = some k ∧
      k.value = (ch.extractLsb' (64 - s - w) w).setWidth 8 ∧
      (∀ j, j < 8 → k.value.getLsbD j = (decide (j < w) && bitAt ch (s + (w - 1 - j)))) ∧
      k.count = ((List.range w).filter fun j => bitAt ch (s + j)).length ∧
      k.count = ((List.range 8).filter fun j => k.value.getLsbD j).length) ∧
    (¬ (1 ≤ w ∧ w ≤ 8 ∧ s + w ≤ 64) → chunkRead ch s w = none)

/-- R61, R62: index `i` of a channel is bit `63 - i` of the 64-bit view and bit `7 - (i mod 8)` of byte `i / 8`, byte 0
being the most significant. -/
def Obligations.ChannelIndexIsMostSignificantFirst : Prop :=
  ∀ (ch : Channel) (i : Nat), i < 64 →
    bitRead ch i = some (ch.getLsbD (63 - i)) ∧
    bitRead ch i = some ((ch.extractLsb' (8 * (7 - i / 8)) 8).getLsbD (7 - i % 8))

/-- R64, R65: a bit written is read back, every other bit of the channel stays, and an index outside 0..63 is no access. -/
def Obligations.BitWriteAssignsOneBit : Prop :=
  ∀ (ch : Channel) (i : Nat) (v : Bool),
    (i < 64 → ∃ ch', bitWrite ch i v = some ch' ∧ bitRead ch' i = some v ∧
      ∀ k, k ≠ i → bitRead ch' k = bitRead ch k) ∧
    (64 ≤ i → bitWrite ch i v = none ∧ bitRead ch i = none)

/-- R210: `tens*10 + ones` for every byte, the value of the two digits for decimal bytes, and the range 0..165. -/
def Obligations.BcdToDecimalIsTensAndOnes : Prop :=
  (∀ b : Byte, bcdToDecimal b = (b.extractLsb' 4 4).toNat * 10 + (b.extractLsb' 0 4).toNat ∧ bcdToDecimal b ≤ 165) ∧
  (∀ n, n < 100 → bcdToDecimal (bcd n) = n) ∧ bcdToDecimal 0x1A = 20 ∧ bcdToDecimal 0xFF = 165

/-- R213: the leap test is the Gregorian one on 1970 + `o`; the leap offsets in 0..165 are those congruent to 2 mod 4 but
for 130; February has 29 days in offset year 2 and 28 in offset year 1. -/
def Obligations.LeapYearsAreTestedOnTheCalendarYear : Prop :=
  (∀ o, isLeap o = true ↔
    (1970 + o) % 4 = 0 ∧ ((1970 + o) % 100 ≠ 0 ∨ (1970 + o) % 400 = 0)) ∧
  (∀ o, o ≤ 165 → (isLeap o = true ↔ o % 4 = 2 ∧ o ≠ 130)) ∧
  daysInMonth Config.params 2 2 = 29 ∧ daysInMonth Config.params 2 1 = 28

/-- R216: `epochSeconds` is the sum of R216, with R212's offset year, wherever the month is 1..12 and the date is at least
1, and has no value elsewhere (R219). -/
def Obligations.EpochSecondsIsTheSumOfElapsedTime : Prop :=
  ∀ (year month date hour minute : Byte) (o : Nat),
    o = (if bcdToDecimal year ≤ 99 then bcdToDecimal year + 30 else bcdToDecimal year) →
    (1 ≤ bcdToDecimal month → bcdToDecimal month ≤ 12 → 1 ≤ bcdToDecimal date →
      epochSeconds Config.params year month date hour minute = some
        ((o * 365 + ((List.range o).filter fun i => isLeap i).length +
          ((List.range (bcdToDecimal month - 1)).map fun k =>
            if k = 1 ∧ isLeap o = true then 29
            else [31, 28, 31, 30, 31, 30, 31, 31, 30, 31, 30, 31].getD k 0).sum +
          (bcdToDecimal date - 1)) * 86400 + bcdToDecimal hour * 3600 + bcdToDecimal minute * 60)) ∧
    (bcdToDecimal month = 0 ∨ 12 < bcdToDecimal month ∨ bcdToDecimal date = 0 →
      epochSeconds Config.params year month date hour minute = none)

/-- R221: for every real date from 2000-01-01 to 2099-12-31 and every hour and minute, `epochSeconds` of the BCD bytes is
the proleptic Gregorian count of seconds, computed by an independent reference; the source's scenario has its value; and
the two February lengths are those of the source's example. -/
def Obligations.EpochSecondsAgreesWithTheCivilCalendar : Prop :=
  (∀ y m d h mi : Nat, y < 100 → 1 ≤ m → m ≤ 12 → 1 ≤ d → d ≤ civilMonthLength (2000 + y) m → h < 24 → mi < 60 →
    epochSeconds Config.params (bcd y) (bcd m) (bcd d) (bcd h) (bcd mi) =
      some (civilDays (2000 + y) m d * 86400 + h * 3600 + mi * 60)) ∧
  epochSeconds Config.params 0x23 0x06 0x15 0x14 0x30 = some 1686839400 ∧
  daysInMonth Config.params 2 2 = 29 ∧ daysInMonth Config.params 2 1 = 28

/-- R217, R218: for every five bytes of the widths the fields have, a value of `epochSeconds` is a multiple of 60 in
946684800..5239722300, both ends occur, and for decimal digits and a real time of day in a year up to 2099 it is at most
4102444740. -/
def Obligations.EpochSecondsStaysInItsRange : Prop :=
  (∀ (year month date hour minute : Byte) (n : Nat), month.toNat ≤ 0x1F → date.toNat ≤ 0x3F → hour.toNat ≤ 0x3F →
    minute.toNat ≤ 0x7F → epochSeconds Config.params year month date hour minute = some n →
    946684800 ≤ n ∧ n ≤ 5239722300 ∧ n % 60 = 0 ∧ n < 2 ^ 33) ∧
  epochSeconds Config.params 0x00 0x01 0x01 0x00 0x00 = some 946684800 ∧
  epochSeconds Config.params 0xFF 0x12 0x3F 0x3F 0x7F = some 5239722300 ∧
  (∀ y m d h mi n : Nat, y < 100 → 1 ≤ m → m ≤ 12 → 1 ≤ d → d ≤ civilMonthLength (2000 + y) m → h < 24 → mi < 60 →
    epochSeconds Config.params (bcd y) (bcd m) (bcd d) (bcd h) (bcd mi) = some n → n ≤ 4102444740)

/-- R250, R70: every step of every state answers a next state: no fault, no refusal, and no channel access out of
range. With an empty port the step leaves the state, by the model's choice (log 2). -/
def Obligations.EveryStepAnswersANextState : Prop := ∀ s : State, Safe s

/-- The state after reset satisfies the invariant. -/
def Obligations.ResetSatisfiesTheInvariant : Prop := Inv State.reset

/-- Every step keeps the invariant: idle slots above the pointer (R162), `frameReady` and `timeAvailable` only with the
frame of the most recent match (R29, R234), a fresh frame while `timeAvailable` (R231), legal lengths and leap indicators
(R34, R35), and a `lastFrame` that is the reset record or one the block can produce (R33). -/
def Obligations.EveryStepKeepsTheInvariant : Prop := ∀ s t : State, Inv s → step s = .next t → Inv t

/-- R20: only `RESET` changes the two configuration registers, and it sets them to its arguments. -/
def Obligations.OnlyResetChangesTheConfiguration : Prop :=
  ∀ s t : State, step s = .next t →
    (∃ p c rest, s.inbox = .reset p c :: rest ∧ t.paddingMs = p ∧ t.carrierOffLevel = c) ∨
    (t.paddingMs = s.paddingMs ∧ t.carrierOffLevel = s.carrierOffLevel)

/-- R26, R27, R28: PSTART and `RESET` are the only writers of the pending start and of `bOnlyFlag`; `lastPulseStartMillis`
is written with the pending start by SYM1, SYM1B, SYM2, SYM3 and SYM5, by `RESET`, and by nothing else. -/
def Obligations.TimingRegistersHaveOnlyTheirWriters : Prop :=
  ∀ s t : State, step s = .next t →
    (∃ p c rest, s.inbox = .reset p c :: rest) ∨
    (∃ u rest, Performs s (.pstart u) rest ∧ t.pendingPulseStartMillis = u ∧
      t.lastPulseStartMillis = s.lastPulseStartMillis) ∨
    (t.pendingPulseStartMillis = s.pendingPulseStartMillis ∧ t.bOnlyFlag = s.bOnlyFlag ∧
      (t.lastPulseStartMillis = s.lastPulseStartMillis ∨
        (t.lastPulseStartMillis = s.pendingPulseStartMillis ∧
          ∃ i rest, Performs s i rest ∧ (i = .sym5 ∨ (dataPair i).isSome = true))))

/-- R230, R231: `timeAvailable` is 1 after a step only where it was 1 and the step was no pulse end, or where the step
performed SYM5 with `frameReady` = 1, and in that case it is 1; every other pulse end clears it, and PSTART leaves it. -/
def Obligations.TimeAvailableRisesOnlyAtAMinuteBoundary : Prop :=
  ∀ s t : State, step s = .next t →
    (t.timeAvailable = true →
      (∃ rest, Performs s .sym5 rest ∧ s.frameReady = true) ∨
      (s.timeAvailable = true ∧ ∀ i rest, Performs s i rest → ∃ u, i = .pstart u)) ∧
    (∀ rest, Performs s .sym5 rest → t.timeAvailable = s.frameReady ∧ t.frameReady = false) ∧
    (∀ u rest, Performs s (.pstart u) rest → t.timeAvailable = s.timeAvailable) ∧
    (∀ e rest, s.inbox = .edge e :: rest → e.level ≠ s.carrierOffLevel → ¬ Performs s .sym5 rest →
      t.timeAvailable = false)

/-- R29: `frameReady` is set only by a data symbol that completes the marker with every parity group even, and cleared
only by one that completes it with an odd group, by SYM5, or by `RESET`. The groups are those of R186 (log 9); at pointer
58 the year's first slot is A 16, as R72 has it and R71 does not (log 23). -/
def Obligations.FrameReadyHasOnlyItsWriters : Prop :=
  ∀ s t : State, step s = .next t → t.frameReady ≠ s.frameReady →
    (∃ p c rest, s.inbox = .reset p c :: rest ∧ t.frameReady = false) ∨
    (∃ rest, Performs s .sym5 rest ∧ t.frameReady = false) ∨
    (∃ i a b f rest, Performs s i rest ∧ dataPair i = some (a, b, f) ∧ completesMarker a f s ∧
      t.frameReady = decide (parityVerdict t.channelA t.channelB (slotOf f s) = .ok))

/-- R233: `lastFrame` changes only by `RESET`, or in the step of a data symbol that completes the marker with every parity
group even. The groups are those of R186 (log 9); at pointer 58 the year's first slot is A 16, as R72 has it and R71 does
not (log 23). -/
def Obligations.LastFrameIsWrittenOnlyAtAValidatedMatch : Prop :=
  ∀ s t : State, step s = .next t → t.lastFrame ≠ s.lastFrame →
    (∃ p c rest, s.inbox = .reset p c :: rest) ∨
    (∃ i a b f rest, Performs s i rest ∧ dataPair i = some (a, b, f) ∧ completesMarker a f s ∧
      parityVerdict t.channelA t.channelB (slotOf f s) = .ok ∧ t.frameReady = true ∧ 58 ≤ t.frameLengthSeconds.toNat)

/-- R21, R36, R236: the consumer's `READ`s do not disturb the decoder: performing everything issued gives the same
registers with the `READ`s as without them. -/
def Obligations.ReadsDoNotDisturbTheDecoder : Prop :=
  ∀ s : State, ∃ t u : State,
    Sys2Proof.core.run s.inbox.length s = .next t ∧
    Sys2Proof.core.run (dropReads s.inbox).length { s with inbox := dropReads s.inbox } = .next u ∧
    t.inbox = [] ∧ u.inbox = [] ∧ SameBlock t u

/-- R91, R131, R132: only differences of times matter, mod 2^32: moving the two timing registers and every timestamp by
the same amount moves the result by that amount and changes nothing else. -/
def Obligations.OnlyDifferencesOfTimesMatter : Prop :=
  ∀ (k : Millis) (s : State) (e : Edge) (rest : List Transaction), s.inbox = .edge e :: rest →
    ∃ t, step s = .next t ∧ step (shiftTime k s) = .next (shiftTime k t)

/-- R24, R100, R162: the data symbols of a list of seconds leave, slot after slot from the pointer on, exactly the bit
pairs sent, and every other slot as before. -/
def Obligations.SecondsSentFillTheSlotsInOrder : Prop :=
  ∀ (s : State) (sent : List (Bool × Bool)), s.bitPointer.toNat + sent.length ≤ 63 →
    ∃ t, runOps (sent.flatMap slotOps) s = .next t ∧
      t.bitPointer.toNat = s.bitPointer.toNat + sent.length ∧
      (∀ j ab, sent[j]? = some ab →
        bitAt t.channelA (s.bitPointer.toNat + 1 + j) = ab.1 ∧ bitAt t.channelB (s.bitPointer.toNat + 1 + j) = ab.2) ∧
      (∀ k, k < 64 → k ≤ s.bitPointer.toNat ∨ s.bitPointer.toNat + sent.length < k →
        bitAt t.channelA k = bitAt s.channelA k ∧ bitAt t.channelB k = bitAt s.channelB k)

/-- R105, last part: with `paddingMs` = 0, the transactions of `SEC t a b` leave the pair (a, b) in the next slot, the
pointer there and every other slot as before, if the last accepted pulse started 300 ms or more before `t`. -/
def Obligations.SecondStatementWritesTheNextSlot : Prop :=
  ∀ (s : State) (t : Millis) (a b : Bool), s.paddingMs = 0 → 300 ≤ (t - s.lastPulseStartMillis).toNat →
    s.bitPointer.toNat < 63 → s.inbox = secAt s.carrierOffLevel t a b →
    ∃ u, Sys2Proof.core.run s.inbox.length s = .next u ∧ u.inbox = [] ∧
      u.bitPointer.toNat = s.bitPointer.toNat + 1 ∧
      (∀ k, k < 64 → bitAt u.channelA k = if k = s.bitPointer.toNat + 1 then a else bitAt s.channelA k) ∧
      (∀ k, k < 64 → bitAt u.channelB k = if k = s.bitPointer.toNat + 1 then b else bitAt s.channelB k)

/-- R177: whatever pulse starts, discards and flagged data symbols follow a match before the pointer moves, the records of
the match stay equal, an unspecified `epochSeconds` among them (log 17): a rewrite of the slot that matches again produces
them anew from channels that differ in the slot's own bits only, and one that does not match leaves them. -/
def Obligations.RepeatedMatchProducesAnEqualRecord : Prop :=
  ∀ (s : State) (i : Instr) (a b f : Bool), dataPair i = some (a, b, f) → completesMarker a f s →
    ∀ later : List Instr, (∀ j ∈ later, staysOnSlot j = true) →
      ∃ t u, exec i s = .next t ∧ runOps later t = .next u ∧
        u.bitPointer = t.bitPointer ∧
        (∀ k, k < 64 → k ≠ slotOf f s →
          bitAt u.channelA k = bitAt t.channelA k ∧ bitAt u.channelB k = bitAt t.channelB k) ∧
        u.frameLengthSeconds = t.frameLengthSeconds ∧
        u.leapSecondIndicator = t.leapSecondIndicator ∧
        u.parityOutcome = t.parityOutcome ∧
        u.frameReady = t.frameReady ∧
        u.lastFrame = t.lastFrame
end

