-- ==== Sys2Proof/Laws/State.lean ====
section
/-! SUPPORT. What each named update of the state does to each field, one lemma per field per update. -/

namespace Sys2Proof.Machine

@[simp] theorem State.latchStart_paddingMs (s : State) (t : Millis) : (s.latchStart t).paddingMs = s.paddingMs := rfl
@[simp] theorem State.latchStart_carrierOffLevel (s : State) (t : Millis) : (s.latchStart t).carrierOffLevel = s.carrierOffLevel := rfl
@[simp] theorem State.latchStart_channelA (s : State) (t : Millis) : (s.latchStart t).channelA = s.channelA := rfl
@[simp] theorem State.latchStart_channelB (s : State) (t : Millis) : (s.latchStart t).channelB = s.channelB := rfl
@[simp] theorem State.latchStart_bitPointer (s : State) (t : Millis) : (s.latchStart t).bitPointer = s.bitPointer := rfl
@[simp] theorem State.latchStart_lastPulseStartMillis (s : State) (t : Millis) : (s.latchStart t).lastPulseStartMillis = s.lastPulseStartMillis := rfl
@[simp] theorem State.latchStart_pendingPulseStartMillis (s : State) (t : Millis) : (s.latchStart t).pendingPulseStartMillis = t := rfl
@[simp] theorem State.latchStart_bOnlyFlag (s : State) (t : Millis) : (s.latchStart t).bOnlyFlag = bOnlyOf s.lastPulseStartMillis t := rfl
@[simp] theorem State.latchStart_frameReady (s : State) (t : Millis) : (s.latchStart t).frameReady = s.frameReady := rfl
@[simp] theorem State.latchStart_timeAvailable (s : State) (t : Millis) : (s.latchStart t).timeAvailable = s.timeAvailable := rfl
@[simp] theorem State.latchStart_parityOutcome (s : State) (t : Millis) : (s.latchStart t).parityOutcome = s.parityOutcome := rfl
@[simp] theorem State.latchStart_frameLengthSeconds (s : State) (t : Millis) : (s.latchStart t).frameLengthSeconds = s.frameLengthSeconds := rfl
@[simp] theorem State.latchStart_leapSecondIndicator (s : State) (t : Millis) : (s.latchStart t).leapSecondIndicator = s.leapSecondIndicator := rfl
@[simp] theorem State.latchStart_lastFrame (s : State) (t : Millis) : (s.latchStart t).lastFrame = s.lastFrame := rfl
@[simp] theorem State.latchStart_inbox (s : State) (t : Millis) : (s.latchStart t).inbox = s.inbox := rfl
@[simp] theorem State.latchStart_readings (s : State) (t : Millis) : (s.latchStart t).readings = s.readings := rfl
@[simp] theorem State.latchStart_draws (s : State) (t : Millis) : (s.latchStart t).draws = s.draws := rfl

@[simp] theorem State.prologue_paddingMs (s : State) : (s.prologue).paddingMs = s.paddingMs := rfl
@[simp] theorem State.prologue_carrierOffLevel (s : State) : (s.prologue).carrierOffLevel = s.carrierOffLevel := rfl
@[simp] theorem State.prologue_channelA (s : State) : (s.prologue).channelA = s.channelA := rfl
@[simp] theorem State.prologue_channelB (s : State) : (s.prologue).channelB = s.channelB := rfl
@[simp] theorem State.prologue_bitPointer (s : State) : (s.prologue).bitPointer = s.bitPointer := rfl
@[simp] theorem State.prologue_lastPulseStartMillis (s : State) : (s.prologue).lastPulseStartMillis = s.lastPulseStartMillis := rfl
@[simp] theorem State.prologue_pendingPulseStartMillis (s : State) : (s.prologue).pendingPulseStartMillis = s.pendingPulseStartMillis := rfl
@[simp] theorem State.prologue_bOnlyFlag (s : State) : (s.prologue).bOnlyFlag = s.bOnlyFlag := rfl
@[simp] theorem State.prologue_frameReady (s : State) : (s.prologue).frameReady = s.frameReady := rfl
@[simp] theorem State.prologue_timeAvailable (s : State) : (s.prologue).timeAvailable = false := rfl
@[simp] theorem State.prologue_parityOutcome (s : State) : (s.prologue).parityOutcome = s.parityOutcome := rfl
@[simp] theorem State.prologue_frameLengthSeconds (s : State) : (s.prologue).frameLengthSeconds = s.frameLengthSeconds := rfl
@[simp] theorem State.prologue_leapSecondIndicator (s : State) : (s.prologue).leapSecondIndicator = s.leapSecondIndicator := rfl
@[simp] theorem State.prologue_lastFrame (s : State) : (s.prologue).lastFrame = s.lastFrame := rfl
@[simp] theorem State.prologue_inbox (s : State) : (s.prologue).inbox = s.inbox := rfl
@[simp] theorem State.prologue_readings (s : State) : (s.prologue).readings = s.readings := rfl
@[simp] theorem State.prologue_draws (s : State) : (s.prologue).draws = s.draws := rfl

@[simp] theorem State.handOff_paddingMs (s : State) : (s.handOff).paddingMs = s.paddingMs := rfl
@[simp] theorem State.handOff_carrierOffLevel (s : State) : (s.handOff).carrierOffLevel = s.carrierOffLevel := rfl
@[simp] theorem State.handOff_channelA (s : State) : (s.handOff).channelA = s.channelA := rfl
@[simp] theorem State.handOff_channelB (s : State) : (s.handOff).channelB = s.channelB := rfl
@[simp] theorem State.handOff_bitPointer (s : State) : (s.handOff).bitPointer = s.bitPointer := rfl
@[simp] theorem State.handOff_lastPulseStartMillis (s : State) : (s.handOff).lastPulseStartMillis = s.lastPulseStartMillis := rfl
@[simp] theorem State.handOff_pendingPulseStartMillis (s : State) : (s.handOff).pendingPulseStartMillis = s.pendingPulseStartMillis := rfl
@[simp] theorem State.handOff_bOnlyFlag (s : State) : (s.handOff).bOnlyFlag = s.bOnlyFlag := rfl
@[simp] theorem State.handOff_frameReady (s : State) : (s.handOff).frameReady = if s.frameReady then false else s.frameReady := rfl
@[simp] theorem State.handOff_timeAvailable (s : State) : (s.handOff).timeAvailable = if s.frameReady then true else s.timeAvailable := rfl
@[simp] theorem State.handOff_parityOutcome (s : State) : (s.handOff).parityOutcome = s.parityOutcome := rfl
@[simp] theorem State.handOff_frameLengthSeconds (s : State) : (s.handOff).frameLengthSeconds = s.frameLengthSeconds := rfl
@[simp] theorem State.handOff_leapSecondIndicator (s : State) : (s.handOff).leapSecondIndicator = s.leapSecondIndicator := rfl
@[simp] theorem State.handOff_lastFrame (s : State) : (s.handOff).lastFrame = s.lastFrame := rfl
@[simp] theorem State.handOff_inbox (s : State) : (s.handOff).inbox = s.inbox := rfl
@[simp] theorem State.handOff_readings (s : State) : (s.handOff).readings = s.readings := rfl
@[simp] theorem State.handOff_draws (s : State) : (s.handOff).draws = s.draws := rfl

@[simp] theorem State.acceptPulse_paddingMs (s : State) : (s.acceptPulse).paddingMs = s.paddingMs := rfl
@[simp] theorem State.acceptPulse_carrierOffLevel (s : State) : (s.acceptPulse).carrierOffLevel = s.carrierOffLevel := rfl
@[simp] theorem State.acceptPulse_channelA (s : State) : (s.acceptPulse).channelA = s.channelA := rfl
@[simp] theorem State.acceptPulse_channelB (s : State) : (s.acceptPulse).channelB = s.channelB := rfl
@[simp] theorem State.acceptPulse_bitPointer (s : State) : (s.acceptPulse).bitPointer = s.bitPointer := rfl
@[simp] theorem State.acceptPulse_lastPulseStartMillis (s : State) : (s.acceptPulse).lastPulseStartMillis = s.pendingPulseStartMillis := rfl
@[simp] theorem State.acceptPulse_pendingPulseStartMillis (s : State) : (s.acceptPulse).pendingPulseStartMillis = s.pendingPulseStartMillis := rfl
@[simp] theorem State.acceptPulse_bOnlyFlag (s : State) : (s.acceptPulse).bOnlyFlag = s.bOnlyFlag := rfl
@[simp] theorem State.acceptPulse_frameReady (s : State) : (s.acceptPulse).frameReady = s.frameReady := rfl
@[simp] theorem State.acceptPulse_timeAvailable (s : State) : (s.acceptPulse).timeAvailable = s.timeAvailable := rfl
@[simp] theorem State.acceptPulse_parityOutcome (s : State) : (s.acceptPulse).parityOutcome = s.parityOutcome := rfl
@[simp] theorem State.acceptPulse_frameLengthSeconds (s : State) : (s.acceptPulse).frameLengthSeconds = s.frameLengthSeconds := rfl
@[simp] theorem State.acceptPulse_leapSecondIndicator (s : State) : (s.acceptPulse).leapSecondIndicator = s.leapSecondIndicator := rfl
@[simp] theorem State.acceptPulse_lastFrame (s : State) : (s.acceptPulse).lastFrame = s.lastFrame := rfl
@[simp] theorem State.acceptPulse_inbox (s : State) : (s.acceptPulse).inbox = s.inbox := rfl
@[simp] theorem State.acceptPulse_readings (s : State) : (s.acceptPulse).readings = s.readings := rfl
@[simp] theorem State.acceptPulse_draws (s : State) : (s.acceptPulse).draws = s.draws := rfl

@[simp] theorem State.frameReset_paddingMs (s : State) : (s.frameReset).paddingMs = s.paddingMs := rfl
@[simp] theorem State.frameReset_carrierOffLevel (s : State) : (s.frameReset).carrierOffLevel = s.carrierOffLevel := rfl
@[simp] theorem State.frameReset_channelA (s : State) : (s.frameReset).channelA = fillChannel true := rfl
@[simp] theorem State.frameReset_channelB (s : State) : (s.frameReset).channelB = fillChannel false := rfl
@[simp] theorem State.frameReset_bitPointer (s : State) : (s.frameReset).bitPointer = 0#6 := rfl
@[simp] theorem State.frameReset_lastPulseStartMillis (s : State) : (s.frameReset).lastPulseStartMillis = s.lastPulseStartMillis := rfl
@[simp] theorem State.frameReset_pendingPulseStartMillis (s : State) : (s.frameReset).pendingPulseStartMillis = s.pendingPulseStartMillis := rfl
@[simp] theorem State.frameReset_bOnlyFlag (s : State) : (s.frameReset).bOnlyFlag = s.bOnlyFlag := rfl
@[simp] theorem State.frameReset_frameReady (s : State) : (s.frameReset).frameReady = s.frameReady := rfl
@[simp] theorem State.frameReset_timeAvailable (s : State) : (s.frameReset).timeAvailable = s.timeAvailable := rfl
@[simp] theorem State.frameReset_parityOutcome (s : State) : (s.frameReset).parityOutcome = s.parityOutcome := rfl
@[simp] theorem State.frameReset_frameLengthSeconds (s : State) : (s.frameReset).frameLengthSeconds = s.frameLengthSeconds := rfl
@[simp] theorem State.frameReset_leapSecondIndicator (s : State) : (s.frameReset).leapSecondIndicator = s.leapSecondIndicator := rfl
@[simp] theorem State.frameReset_lastFrame (s : State) : (s.frameReset).lastFrame = s.lastFrame := rfl
@[simp] theorem State.frameReset_inbox (s : State) : (s.frameReset).inbox = s.inbox := rfl
@[simp] theorem State.frameReset_readings (s : State) : (s.frameReset).readings = s.readings := rfl
@[simp] theorem State.frameReset_draws (s : State) : (s.frameReset).draws = s.draws + 1 := rfl

@[simp] theorem State.setSlot_paddingMs (s : State) (p : Pointer) (a b : Channel) : (s.setSlot p a b).paddingMs = s.paddingMs := rfl
@[simp] theorem State.setSlot_carrierOffLevel (s : State) (p : Pointer) (a b : Channel) : (s.setSlot p a b).carrierOffLevel = s.carrierOffLevel := rfl
@[simp] theorem State.setSlot_channelA (s : State) (p : Pointer) (a b : Channel) : (s.setSlot p a b).channelA = a := rfl
@[simp] theorem State.setSlot_channelB (s : State) (p : Pointer) (a b : Channel) : (s.setSlot p a b).channelB = b := rfl
@[simp] theorem State.setSlot_bitPointer (s : State) (p : Pointer) (a b : Channel) : (s.setSlot p a b).bitPointer = p := rfl
@[simp] theorem State.setSlot_lastPulseStartMillis (s : State) (p : Pointer) (a b : Channel) : (s.setSlot p a b).lastPulseStartMillis = s.lastPulseStartMillis := rfl
@[simp] theorem State.setSlot_pendingPulseStartMillis (s : State) (p : Pointer) (a b : Channel) : (s.setSlot p a b).pendingPulseStartMillis = s.pendingPulseStartMillis := rfl
@[simp] theorem State.setSlot_bOnlyFlag (s : State) (p : Pointer) (a b : Channel) : (s.setSlot p a b).bOnlyFlag = s.bOnlyFlag := rfl
@[simp] theorem State.setSlot_frameReady (s : State) (p : Pointer) (a b : Channel) : (s.setSlot p a b).frameReady = s.frameReady := rfl
@[simp] theorem State.setSlot_timeAvailable (s : State) (p : Pointer) (a b : Channel) : (s.setSlot p a b).timeAvailable = s.timeAvailable := rfl
@[simp] theorem State.setSlot_parityOutcome (s : State) (p : Pointer) (a b : Channel) : (s.setSlot p a b).parityOutcome = s.parityOutcome := rfl
@[simp] theorem State.setSlot_frameLengthSeconds (s : State) (p : Pointer) (a b : Channel) : (s.setSlot p a b).frameLengthSeconds = s.frameLengthSeconds := rfl
@[simp] theorem State.setSlot_leapSecondIndicator (s : State) (p : Pointer) (a b : Channel) : (s.setSlot p a b).leapSecondIndicator = s.leapSecondIndicator := rfl
@[simp] theorem State.setSlot_lastFrame (s : State) (p : Pointer) (a b : Channel) : (s.setSlot p a b).lastFrame = s.lastFrame := rfl
@[simp] theorem State.setSlot_inbox (s : State) (p : Pointer) (a b : Channel) : (s.setSlot p a b).inbox = s.inbox := rfl
@[simp] theorem State.setSlot_readings (s : State) (p : Pointer) (a b : Channel) : (s.setSlot p a b).readings = s.readings := rfl
@[simp] theorem State.setSlot_draws (s : State) (p : Pointer) (a b : Channel) : (s.setSlot p a b).draws = s.draws := rfl

@[simp] theorem State.readOutputs_paddingMs (s : State) : (s.readOutputs).paddingMs = s.paddingMs := rfl
@[simp] theorem State.readOutputs_carrierOffLevel (s : State) : (s.readOutputs).carrierOffLevel = s.carrierOffLevel := rfl
@[simp] theorem State.readOutputs_channelA (s : State) : (s.readOutputs).channelA = s.channelA := rfl
@[simp] theorem State.readOutputs_channelB (s : State) : (s.readOutputs).channelB = s.channelB := rfl
@[simp] theorem State.readOutputs_bitPointer (s : State) : (s.readOutputs).bitPointer = s.bitPointer := rfl
@[simp] theorem State.readOutputs_lastPulseStartMillis (s : State) : (s.readOutputs).lastPulseStartMillis = s.lastPulseStartMillis := rfl
@[simp] theorem State.readOutputs_pendingPulseStartMillis (s : State) : (s.readOutputs).pendingPulseStartMillis = s.pendingPulseStartMillis := rfl
@[simp] theorem State.readOutputs_bOnlyFlag (s : State) : (s.readOutputs).bOnlyFlag = s.bOnlyFlag := rfl
@[simp] theorem State.readOutputs_frameReady (s : State) : (s.readOutputs).frameReady = s.frameReady := rfl
@[simp] theorem State.readOutputs_timeAvailable (s : State) : (s.readOutputs).timeAvailable = s.timeAvailable := rfl
@[simp] theorem State.readOutputs_parityOutcome (s : State) : (s.readOutputs).parityOutcome = s.parityOutcome := rfl
@[simp] theorem State.readOutputs_frameLengthSeconds (s : State) : (s.readOutputs).frameLengthSeconds = s.frameLengthSeconds := rfl
@[simp] theorem State.readOutputs_leapSecondIndicator (s : State) : (s.readOutputs).leapSecondIndicator = s.leapSecondIndicator := rfl
@[simp] theorem State.readOutputs_lastFrame (s : State) : (s.readOutputs).lastFrame = s.lastFrame := rfl
@[simp] theorem State.readOutputs_inbox (s : State) : (s.readOutputs).inbox = s.inbox := rfl
@[simp] theorem State.readOutputs_readings (s : State) : (s.readOutputs).readings = s.outputs :: s.readings := rfl
@[simp] theorem State.readOutputs_draws (s : State) : (s.readOutputs).draws = s.draws := rfl

@[simp] theorem State.rearm_paddingMs (s : State) (p : BitVec 16) (c : Bool) : (s.rearm p c).paddingMs = p := rfl
@[simp] theorem State.rearm_carrierOffLevel (s : State) (p : BitVec 16) (c : Bool) : (s.rearm p c).carrierOffLevel = c := rfl
@[simp] theorem State.rearm_channelA (s : State) (p : BitVec 16) (c : Bool) : (s.rearm p c).channelA = fillChannel true := rfl
@[simp] theorem State.rearm_channelB (s : State) (p : BitVec 16) (c : Bool) : (s.rearm p c).channelB = fillChannel false := rfl
@[simp] theorem State.rearm_bitPointer (s : State) (p : BitVec 16) (c : Bool) : (s.rearm p c).bitPointer = 0#6 := rfl
@[simp] theorem State.rearm_lastPulseStartMillis (s : State) (p : BitVec 16) (c : Bool) : (s.rearm p c).lastPulseStartMillis = 0#32 := rfl
@[simp] theorem State.rearm_pendingPulseStartMillis (s : State) (p : BitVec 16) (c : Bool) : (s.rearm p c).pendingPulseStartMillis = 0#32 := rfl
@[simp] theorem State.rearm_bOnlyFlag (s : State) (p : BitVec 16) (c : Bool) : (s.rearm p c).bOnlyFlag = false := rfl
@[simp] theorem State.rearm_frameReady (s : State) (p : BitVec 16) (c : Bool) : (s.rearm p c).frameReady = false := rfl
@[simp] theorem State.rearm_timeAvailable (s : State) (p : BitVec 16) (c : Bool) : (s.rearm p c).timeAvailable = false := rfl
@[simp] theorem State.rearm_parityOutcome (s : State) (p : BitVec 16) (c : Bool) : (s.rearm p c).parityOutcome = .ok := rfl
@[simp] theorem State.rearm_frameLengthSeconds (s : State) (p : BitVec 16) (c : Bool) : (s.rearm p c).frameLengthSeconds = 0#8 := rfl
@[simp] theorem State.rearm_leapSecondIndicator (s : State) (p : BitVec 16) (c : Bool) : (s.rearm p c).leapSecondIndicator = .zero := rfl
@[simp] theorem State.rearm_lastFrame (s : State) (p : BitVec 16) (c : Bool) : (s.rearm p c).lastFrame = TimeFrame.zero := rfl
@[simp] theorem State.rearm_inbox (s : State) (p : BitVec 16) (c : Bool) : (s.rearm p c).inbox = s.inbox := rfl
@[simp] theorem State.rearm_readings (s : State) (p : BitVec 16) (c : Bool) : (s.rearm p c).readings = s.readings := rfl
@[simp] theorem State.rearm_draws (s : State) (p : BitVec 16) (c : Bool) : (s.rearm p c).draws = s.draws + 1 := rfl

@[simp] theorem State.withInbox_paddingMs (s : State) (txs : List Transaction) : (s.withInbox txs).paddingMs = s.paddingMs := rfl
@[simp] theorem State.withInbox_carrierOffLevel (s : State) (txs : List Transaction) : (s.withInbox txs).carrierOffLevel = s.carrierOffLevel := rfl
@[simp] theorem State.withInbox_channelA (s : State) (txs : List Transaction) : (s.withInbox txs).channelA = s.channelA := rfl
@[simp] theorem State.withInbox_channelB (s : State) (txs : List Transaction) : (s.withInbox txs).channelB = s.channelB := rfl
@[simp] theorem State.withInbox_bitPointer (s : State) (txs : List Transaction) : (s.withInbox txs).bitPointer = s.bitPointer := rfl
@[simp] theorem State.withInbox_lastPulseStartMillis (s : State) (txs : List Transaction) : (s.withInbox txs).lastPulseStartMillis = s.lastPulseStartMillis := rfl
@[simp] theorem State.withInbox_pendingPulseStartMillis (s : State) (txs : List Transaction) : (s.withInbox txs).pendingPulseStartMillis = s.pendingPulseStartMillis := rfl
@[simp] theorem State.withInbox_bOnlyFlag (s : State) (txs : List Transaction) : (s.withInbox txs).bOnlyFlag = s.bOnlyFlag := rfl
@[simp] theorem State.withInbox_frameReady (s : State) (txs : List Transaction) : (s.withInbox txs).frameReady = s.frameReady := rfl
@[simp] theorem State.withInbox_timeAvailable (s : State) (txs : List Transaction) : (s.withInbox txs).timeAvailable = s.timeAvailable := rfl
@[simp] theorem State.withInbox_parityOutcome (s : State) (txs : List Transaction) : (s.withInbox txs).parityOutcome = s.parityOutcome := rfl
@[simp] theorem State.withInbox_frameLengthSeconds (s : State) (txs : List Transaction) : (s.withInbox txs).frameLengthSeconds = s.frameLengthSeconds := rfl
@[simp] theorem State.withInbox_leapSecondIndicator (s : State) (txs : List Transaction) : (s.withInbox txs).leapSecondIndicator = s.leapSecondIndicator := rfl
@[simp] theorem State.withInbox_lastFrame (s : State) (txs : List Transaction) : (s.withInbox txs).lastFrame = s.lastFrame := rfl
@[simp] theorem State.withInbox_inbox (s : State) (txs : List Transaction) : (s.withInbox txs).inbox = txs := rfl
@[simp] theorem State.withInbox_readings (s : State) (txs : List Transaction) : (s.withInbox txs).readings = s.readings := rfl
@[simp] theorem State.withInbox_draws (s : State) (txs : List Transaction) : (s.withInbox txs).draws = s.draws := rfl

@[simp] theorem State.commitFrame_paddingMs (s : State) (f : TimeFrame) : (s.commitFrame f).paddingMs = s.paddingMs := rfl
@[simp] theorem State.commitFrame_carrierOffLevel (s : State) (f : TimeFrame) : (s.commitFrame f).carrierOffLevel = s.carrierOffLevel := rfl
@[simp] theorem State.commitFrame_channelA (s : State) (f : TimeFrame) : (s.commitFrame f).channelA = s.channelA := rfl
@[simp] theorem State.commitFrame_channelB (s : State) (f : TimeFrame) : (s.commitFrame f).channelB = s.channelB := rfl
@[simp] theorem State.commitFrame_bitPointer (s : State) (f : TimeFrame) : (s.commitFrame f).bitPointer = s.bitPointer := rfl
@[simp] theorem State.commitFrame_lastPulseStartMillis (s : State) (f : TimeFrame) : (s.commitFrame f).lastPulseStartMillis = s.lastPulseStartMillis := rfl
@[simp] theorem State.commitFrame_pendingPulseStartMillis (s : State) (f : TimeFrame) : (s.commitFrame f).pendingPulseStartMillis = s.pendingPulseStartMillis := rfl
@[simp] theorem State.commitFrame_bOnlyFlag (s : State) (f : TimeFrame) : (s.commitFrame f).bOnlyFlag = s.bOnlyFlag := rfl
@[simp] theorem State.commitFrame_frameReady (s : State) (f : TimeFrame) : (s.commitFrame f).frameReady = s.frameReady := rfl
@[simp] theorem State.commitFrame_timeAvailable (s : State) (f : TimeFrame) : (s.commitFrame f).timeAvailable = s.timeAvailable := rfl
@[simp] theorem State.commitFrame_parityOutcome (s : State) (f : TimeFrame) : (s.commitFrame f).parityOutcome = s.parityOutcome := rfl
@[simp] theorem State.commitFrame_frameLengthSeconds (s : State) (f : TimeFrame) : (s.commitFrame f).frameLengthSeconds = s.frameLengthSeconds := rfl
@[simp] theorem State.commitFrame_leapSecondIndicator (s : State) (f : TimeFrame) : (s.commitFrame f).leapSecondIndicator = s.leapSecondIndicator := rfl
@[simp] theorem State.commitFrame_lastFrame (s : State) (f : TimeFrame) : (s.commitFrame f).lastFrame = f := rfl
@[simp] theorem State.commitFrame_inbox (s : State) (f : TimeFrame) : (s.commitFrame f).inbox = s.inbox := rfl
@[simp] theorem State.commitFrame_readings (s : State) (f : TimeFrame) : (s.commitFrame f).readings = s.readings := rfl
@[simp] theorem State.commitFrame_draws (s : State) (f : TimeFrame) : (s.commitFrame f).draws = s.draws := rfl

@[simp] theorem State.countDraw_paddingMs (s : State) : (s.countDraw).paddingMs = s.paddingMs := rfl
@[simp] theorem State.countDraw_carrierOffLevel (s : State) : (s.countDraw).carrierOffLevel = s.carrierOffLevel := rfl
@[simp] theorem State.countDraw_channelA (s : State) : (s.countDraw).channelA = s.channelA := rfl
@[simp] theorem State.countDraw_channelB (s : State) : (s.countDraw).channelB = s.channelB := rfl
@[simp] theorem State.countDraw_bitPointer (s : State) : (s.countDraw).bitPointer = s.bitPointer := rfl
@[simp] theorem State.countDraw_lastPulseStartMillis (s : State) : (s.countDraw).lastPulseStartMillis = s.lastPulseStartMillis := rfl
@[simp] theorem State.countDraw_pendingPulseStartMillis (s : State) : (s.countDraw).pendingPulseStartMillis = s.pendingPulseStartMillis := rfl
@[simp] theorem State.countDraw_bOnlyFlag (s : State) : (s.countDraw).bOnlyFlag = s.bOnlyFlag := rfl
@[simp] theorem State.countDraw_frameReady (s : State) : (s.countDraw).frameReady = s.frameReady := rfl
@[simp] theorem State.countDraw_timeAvailable (s : State) : (s.countDraw).timeAvailable = s.timeAvailable := rfl
@[simp] theorem State.countDraw_parityOutcome (s : State) : (s.countDraw).parityOutcome = s.parityOutcome := rfl
@[simp] theorem State.countDraw_frameLengthSeconds (s : State) : (s.countDraw).frameLengthSeconds = s.frameLengthSeconds := rfl
@[simp] theorem State.countDraw_leapSecondIndicator (s : State) : (s.countDraw).leapSecondIndicator = s.leapSecondIndicator := rfl
@[simp] theorem State.countDraw_lastFrame (s : State) : (s.countDraw).lastFrame = s.lastFrame := rfl
@[simp] theorem State.countDraw_inbox (s : State) : (s.countDraw).inbox = s.inbox := rfl
@[simp] theorem State.countDraw_readings (s : State) : (s.countDraw).readings = s.readings := rfl
@[simp] theorem State.countDraw_draws (s : State) : (s.countDraw).draws = s.draws + 1 := rfl

@[simp] theorem State.failParity_paddingMs (s : State) (code : ParityOutcome) : (s.failParity code).paddingMs = s.paddingMs := rfl
@[simp] theorem State.failParity_carrierOffLevel (s : State) (code : ParityOutcome) : (s.failParity code).carrierOffLevel = s.carrierOffLevel := rfl
@[simp] theorem State.failParity_channelA (s : State) (code : ParityOutcome) : (s.failParity code).channelA = s.channelA := rfl
@[simp] theorem State.failParity_channelB (s : State) (code : ParityOutcome) : (s.failParity code).channelB = s.channelB := rfl
@[simp] theorem State.failParity_bitPointer (s : State) (code : ParityOutcome) : (s.failParity code).bitPointer = s.bitPointer := rfl
@[simp] theorem State.failParity_lastPulseStartMillis (s : State) (code : ParityOutcome) : (s.failParity code).lastPulseStartMillis = s.lastPulseStartMillis := rfl
@[simp] theorem State.failParity_pendingPulseStartMillis (s : State) (code : ParityOutcome) : (s.failParity code).pendingPulseStartMillis = s.pendingPulseStartMillis := rfl
@[simp] theorem State.failParity_bOnlyFlag (s : State) (code : ParityOutcome) : (s.failParity code).bOnlyFlag = s.bOnlyFlag := rfl
@[simp] theorem State.failParity_frameReady (s : State) (code : ParityOutcome) : (s.failParity code).frameReady = false := rfl
@[simp] theorem State.failParity_timeAvailable (s : State) (code : ParityOutcome) : (s.failParity code).timeAvailable = s.timeAvailable := rfl
@[simp] theorem State.failParity_parityOutcome (s : State) (code : ParityOutcome) : (s.failParity code).parityOutcome = code := rfl
@[simp] theorem State.failParity_frameLengthSeconds (s : State) (code : ParityOutcome) : (s.failParity code).frameLengthSeconds = s.frameLengthSeconds := rfl
@[simp] theorem State.failParity_leapSecondIndicator (s : State) (code : ParityOutcome) : (s.failParity code).leapSecondIndicator = s.leapSecondIndicator := rfl
@[simp] theorem State.failParity_lastFrame (s : State) (code : ParityOutcome) : (s.failParity code).lastFrame = s.lastFrame := rfl
@[simp] theorem State.failParity_inbox (s : State) (code : ParityOutcome) : (s.failParity code).inbox = s.inbox := rfl
@[simp] theorem State.failParity_readings (s : State) (code : ParityOutcome) : (s.failParity code).readings = s.readings := rfl
@[simp] theorem State.failParity_draws (s : State) (code : ParityOutcome) : (s.failParity code).draws = s.draws := rfl

@[simp] theorem State.passParity_paddingMs (s : State) : (s.passParity).paddingMs = s.paddingMs := rfl
@[simp] theorem State.passParity_carrierOffLevel (s : State) : (s.passParity).carrierOffLevel = s.carrierOffLevel := rfl
@[simp] theorem State.passParity_channelA (s : State) : (s.passParity).channelA = s.channelA := rfl
@[simp] theorem State.passParity_channelB (s : State) : (s.passParity).channelB = s.channelB := rfl
@[simp] theorem State.passParity_bitPointer (s : State) : (s.passParity).bitPointer = s.bitPointer := rfl
@[simp] theorem State.passParity_lastPulseStartMillis (s : State) : (s.passParity).lastPulseStartMillis = s.lastPulseStartMillis := rfl
@[simp] theorem State.passParity_pendingPulseStartMillis (s : State) : (s.passParity).pendingPulseStartMillis = s.pendingPulseStartMillis := rfl
@[simp] theorem State.passParity_bOnlyFlag (s : State) : (s.passParity).bOnlyFlag = s.bOnlyFlag := rfl
@[simp] theorem State.passParity_frameReady (s : State) : (s.passParity).frameReady = s.frameReady := rfl
@[simp] theorem State.passParity_timeAvailable (s : State) : (s.passParity).timeAvailable = s.timeAvailable := rfl
@[simp] theorem State.passParity_parityOutcome (s : State) : (s.passParity).parityOutcome = .ok := rfl
@[simp] theorem State.passParity_frameLengthSeconds (s : State) : (s.passParity).frameLengthSeconds = s.frameLengthSeconds := rfl
@[simp] theorem State.passParity_leapSecondIndicator (s : State) : (s.passParity).leapSecondIndicator = s.leapSecondIndicator := rfl
@[simp] theorem State.passParity_lastFrame (s : State) : (s.passParity).lastFrame = s.lastFrame := rfl
@[simp] theorem State.passParity_inbox (s : State) : (s.passParity).inbox = s.inbox := rfl
@[simp] theorem State.passParity_readings (s : State) : (s.passParity).readings = s.readings := rfl
@[simp] theorem State.passParity_draws (s : State) : (s.passParity).draws = s.draws := rfl

@[simp] theorem State.recordMatch_paddingMs (s : State) : (s.recordMatch).paddingMs = s.paddingMs := rfl
@[simp] theorem State.recordMatch_carrierOffLevel (s : State) : (s.recordMatch).carrierOffLevel = s.carrierOffLevel := rfl
@[simp] theorem State.recordMatch_channelA (s : State) : (s.recordMatch).channelA = s.channelA := rfl
@[simp] theorem State.recordMatch_channelB (s : State) : (s.recordMatch).channelB = s.channelB := rfl
@[simp] theorem State.recordMatch_bitPointer (s : State) : (s.recordMatch).bitPointer = s.bitPointer := rfl
@[simp] theorem State.recordMatch_lastPulseStartMillis (s : State) : (s.recordMatch).lastPulseStartMillis = s.lastPulseStartMillis := rfl
@[simp] theorem State.recordMatch_pendingPulseStartMillis (s : State) : (s.recordMatch).pendingPulseStartMillis = s.pendingPulseStartMillis := rfl
@[simp] theorem State.recordMatch_bOnlyFlag (s : State) : (s.recordMatch).bOnlyFlag = s.bOnlyFlag := rfl
@[simp] theorem State.recordMatch_frameReady (s : State) : (s.recordMatch).frameReady = true := rfl
@[simp] theorem State.recordMatch_timeAvailable (s : State) : (s.recordMatch).timeAvailable = s.timeAvailable := rfl
@[simp] theorem State.recordMatch_parityOutcome (s : State) : (s.recordMatch).parityOutcome = s.parityOutcome := rfl
@[simp] theorem State.recordMatch_frameLengthSeconds (s : State) : (s.recordMatch).frameLengthSeconds = BitVec.ofNat 8 s.bitPointer.toNat := rfl
@[simp] theorem State.recordMatch_leapSecondIndicator (s : State) : (s.recordMatch).leapSecondIndicator = leapPolicy s.bitPointer.toNat := rfl
@[simp] theorem State.recordMatch_lastFrame (s : State) : (s.recordMatch).lastFrame = s.lastFrame := rfl
@[simp] theorem State.recordMatch_inbox (s : State) : (s.recordMatch).inbox = s.inbox := rfl
@[simp] theorem State.recordMatch_readings (s : State) : (s.recordMatch).readings = s.readings := rfl
@[simp] theorem State.recordMatch_draws (s : State) : (s.recordMatch).draws = s.draws := rfl

@[simp] theorem State.outputs_timeAvailable (s : State) : s.outputs.timeAvailable = s.timeAvailable := rfl
@[simp] theorem State.outputs_lastFrame (s : State) : s.outputs.lastFrame = s.lastFrame := rfl
@[simp] theorem State.outputs_parityOutcome (s : State) : s.outputs.parityOutcome = s.parityOutcome := rfl
@[simp] theorem State.outputs_leapSecondIndicator (s : State) : s.outputs.leapSecondIndicator = s.leapSecondIndicator := rfl
@[simp] theorem State.outputs_frameLengthSeconds (s : State) : s.outputs.frameLengthSeconds = s.frameLengthSeconds := rfl

end Sys2Proof.Machine
end

