-- ==== Sys2Proof/Laws/Channel.lean ====
section
/-! SUPPORT. What the channel primitives do: single bits, chunks, and their side conditions. -/

namespace Sys2Proof.Machine

/-- The bit at an index is bit `63 - i` of the 64-bit view. -/
theorem bitAt_eq_getLsbD (ch : Channel) {i : Nat} (hi : i < 64) : bitAt ch i = ch.getLsbD (63 - i) := by
  simp [bitAt, BitVec.getMsbD_eq_getLsbD, hi]

/-- Two channels with the same 64 bits are equal. -/
theorem channel_ext {x y : Channel} (h : ∀ i, i < 64 → bitAt x i = bitAt y i) : x = y := by
  apply BitVec.eq_of_getLsbD_eq
  intro j hj
  have := h (63 - j) (by omega)
  rw [bitAt_eq_getLsbD _ (by omega), bitAt_eq_getLsbD _ (by omega)] at this
  rwa [show 63 - (63 - j) = j by omega] at this

/-- Reading after an assignment: the assigned bit at its index, the old bit elsewhere. -/
theorem bitAt_assignBit (ch : Channel) {i k : Nat} (v : Bool) (hi : i < 64) (hk : k < 64) :
    bitAt (assignBit ch i v) k = if k = i then v else bitAt ch k := by
  rw [bitAt_eq_getLsbD _ hk, bitAt_eq_getLsbD _ hk]
  have hbit : (1#64 <<< (63 - i)).getLsbD (63 - k) = decide (k = i) := by
    rw [BitVec.getLsbD_shiftLeft, BitVec.getLsbD_one]
    by_cases h : k = i
    · subst h; simp; omega
    · have : ¬ (63 - k = 63 - i) := by omega
      simp only [h, decide_false, Bool.and_eq_false_iff]
      by_cases h2 : 63 - k < 63 - i
      · exact .inl (.inr (by simp [h2]))
      · exact .inr (by simp; omega)
  unfold assignBit
  cases v
  · simp only [Bool.false_eq_true, if_false, BitVec.getLsbD_and, BitVec.getLsbD_not, hbit]
    by_cases h : k = i
    · simp [h]
    · simp only [h, decide_false, Bool.not_false, if_false, Bool.and_eq_left_iff_imp]
      intro _; simp; omega
  · simp only [if_true, BitVec.getLsbD_or, hbit]
    by_cases h : k = i <;> simp [h]

@[simp] theorem bitAt_fill_true {i : Nat} (hi : i < 64) : bitAt (fillChannel true) i = true := by
  have h : ∀ k : Fin 64, bitAt (fillChannel true) k = true := by decide
  exact h ⟨i, hi⟩

@[simp] theorem bitAt_fill_false (i : Nat) : bitAt (fillChannel false) i = false := by
  simp [bitAt, fillChannel]

/-- BitRead answers exactly for an index in 0..63, with the bit there. -/
theorem bitRead_eq_some {ch : Channel} {i : Nat} {v : Bool} :
    bitRead ch i = some v ↔ i < 64 ∧ bitAt ch i = v := by
  simp [bitRead, Config.channelBits]

/-- BitWrite answers exactly for an index in 0..63, with the bit assigned. -/
theorem bitWrite_eq_some {ch ch' : Channel} {i : Nat} {v : Bool} :
    bitWrite ch i v = some ch' ↔ i < 64 ∧ assignBit ch i v = ch' := by
  simp [bitWrite, Config.channelBits]

@[simp] theorem bitsFrom_length (ch : Channel) (s w : Nat) : (bitsFrom ch s w).length = w := by
  induction w generalizing s with
  | zero => rfl
  | succ w ih => simp [bitsFrom, ih]

/-- Bit `k` of a run of bits. -/
theorem bitsFrom_getElem (ch : Channel) (s w k : Nat) (hk : k < w) :
    (bitsFrom ch s w)[k]? = some (bitAt ch (s + k)) := by
  induction w generalizing s k with
  | zero => omega
  | succ w ih =>
    cases k with
    | zero => simp [bitsFrom]
    | succ k => simp only [bitsFrom, List.getElem?_cons_succ]; rw [ih (s + 1) k (by omega)]; congr 2; omega

/-- Runs of bits agree when the bits do. -/
theorem bitsFrom_congr {x y : Channel} {s w : Nat} (h : ∀ i, s ≤ i → i < s + w → bitAt x i = bitAt y i) :
    bitsFrom x s w = bitsFrom y s w := by
  induction w generalizing s with
  | zero => rfl
  | succ w ih =>
    simp only [bitsFrom]
    rw [h s (by omega) (by omega), ih fun i h1 h2 => h i (by omega) (by omega)]

/-- The digits read after `acc` weigh less than `acc` shifted past them. -/
theorem numberOf_eq (acc : Nat) (bs : List Bool) : numberOf acc bs = acc * 2 ^ bs.length + numberOf 0 bs := by
  induction bs generalizing acc with
  | nil => simp [numberOf]
  | cons b bs ih =>
    simp only [numberOf, List.length_cons]
    rw [ih (2 * acc + b.toNat), ih (2 * 0 + b.toNat)]
    ring

theorem numberOf_lt (bs : List Bool) : numberOf 0 bs < 2 ^ bs.length := by
  induction bs with
  | nil => simp [numberOf]
  | cons b bs ih =>
    simp only [numberOf, List.length_cons]
    rw [numberOf_eq]
    cases b <;> simp [Nat.pow_succ] <;> omega

theorem onesOf_le (bs : List Bool) : onesOf bs ≤ bs.length := by
  induction bs with
  | nil => simp [onesOf]
  | cons b bs ih => cases b <;> simp [onesOf] <;> omega

/-- ChunkRead answers exactly under its side conditions. -/
theorem chunkRead_eq_some {ch : Channel} {s w : Nat} {k : Chunk} :
    chunkRead ch s w = some k ↔ (1 ≤ w ∧ w ≤ 8 ∧ s + w ≤ 64) ∧
      k = { value := BitVec.ofNat 8 (numberOf 0 (bitsFrom ch s w)), count := onesOf (bitsFrom ch s w) } := by
  unfold chunkRead
  split
  · rename_i h; simp [h, eq_comm]
  · rename_i h; simp [h]

/-- A chunk of legal parameters can be read at every pointer value of the gate. -/
theorem chunkBack_of_wf {c : Config.ChunkSpec} (hc : c.wf = true) {p : Nat} (h1 : 58 ≤ p) (h2 : p ≤ 61) (ch : Channel) :
    chunkBack ch p c = some { value := BitVec.ofNat 8 (numberOf 0 (bitsFrom ch (p - c.offset) c.width)),
                              count := onesOf (bitsFrom ch (p - c.offset) c.width) } := by
  simp only [Config.ChunkSpec.wf, Config.markerGateMin, Config.markerGateMax, Config.channelBits, Bool.and_eq_true,
    decide_eq_true_eq] at hc
  obtain ⟨⟨⟨hw1, hw8⟩, ho⟩, hs⟩ := hc
  simp only [chunkBack, if_pos (show c.offset ≤ p by omega)]
  exact chunkRead_eq_some.2 ⟨⟨hw1, hw8, by omega⟩, rfl⟩

/-- A single bit at a legal offset can be read at every pointer value of the gate. -/
theorem bitBack_of_wf {o : Nat} (ho : Config.offsetWf o = true) {p : Nat} (h1 : 58 ≤ p) (h2 : p ≤ 61) (ch : Channel) :
    bitBack ch p o = some (bitAt ch (p - o)) := by
  simp only [Config.offsetWf, Config.markerGateMin, decide_eq_true_eq] at ho
  simp only [bitBack, if_pos (show o ≤ p by omega)]
  exact bitRead_eq_some.2 ⟨by omega, rfl⟩

end Sys2Proof.Machine
end

