-- ==== Sys2Proof/Laws/Ops.lean ====
section
/-! SUPPORT. What each shared operation can do, said once; the proofs cite these and do not unfold the operations. -/

namespace Sys2Proof.Machine

/-- The state a data symbol's write leaves. -/
def slotWritten (s : State) (p : Nat) (a b : Bool) : State :=
  s.setSlot (BitVec.ofNat 6 p) (assignBit s.channelA p a) (assignBit s.channelB p b)

/-- The write of a data symbol answers exactly for a slot in 0..63. -/
theorem writeSlot_eq_some {s t : State} {p : Nat} {a b : Bool} :
    writeSlot s p a b = some t ↔ p < 64 ∧ t = slotWritten s p a b := by
  by_cases h : p < 64
  · simp [writeSlot, bitWrite, Config.channelBits, h, slotWritten, eq_comm]
  · simp [writeSlot, bitWrite, Config.channelBits, h]

theorem toNat_pointer {p : Nat} (h : p < 64) : (BitVec.ofNat 6 p).toNat = p := by
  simp; omega

theorem nextPointer_le (f : Bool) (p : Pointer) : nextPointer f p ≤ 64 := by
  have := p.isLt
  unfold nextPointer; split <;> omega

theorem gateOpen_iff {p : Nat} : gateOpen p = true ↔ 58 ≤ p ∧ p ≤ 61 := by
  simp [gateOpen, Config.markerGateMin, Config.markerGateMax]

@[simp] theorem answer_some (s : State) : answer (some s) = .next s := rfl

@[simp] theorem answer_none : answer none = .refused .channelRange := rfl

/-- An operation made of partial primitives answers a next state exactly when they all do. -/
theorem answer_eq_next {o : Option State} {t : State} : answer o = .next t ↔ o = some t := by
  cases o <;> simp [answer]

@[simp] theorem answer_ne_fault (o : Option State) (f : Fault) : answer o ≠ .fault f := by
  cases f

/-- Every case of a data symbol: overflow, a write outside the gate, and a write followed by MarkerCheck. -/
theorem dataSymbol_eq (P : Config.Params) (sym : DataSymbol) (f : Bool) (s : State) :
    dataSymbol P sym f s =
      if nextPointer f s.bitPointer = 64 then some s.prologue.acceptPulse.frameReset
      else
        let w := slotWritten s.prologue.acceptPulse (nextPointer f s.bitPointer) (bitPair sym f).1 (bitPair sym f).2
        if 58 ≤ nextPointer f s.bitPointer ∧ nextPointer f s.bitPointer ≤ 61 then markerCheck P w else some w := by
  have hle := nextPointer_le f s.bitPointer
  unfold dataSymbol
  by_cases h : nextPointer f s.bitPointer = 64
  · simp [h]
  · have hlt : nextPointer f s.bitPointer < 64 := by omega
    simp only [if_neg (show ¬ 63 < nextPointer f s.bitPointer by omega), if_neg h, writeSlot_eq_some.2 ⟨hlt, rfl⟩,
      Option.bind_eq_bind, Option.bind_some]
    by_cases hg : 58 ≤ nextPointer f s.bitPointer ∧ nextPointer f s.bitPointer ≤ 61
    · simp [hg, gateOpen_iff.2 hg]
    · have : gateOpen (nextPointer f s.bitPointer) = false := by
        rw [Bool.eq_false_iff, ne_eq, gateOpen_iff]; exact hg
      simp [hg, this]

/-- The byte of eight bits is the marker pattern when they read 0, six times 1, 0. -/
theorem markerByte : ∀ b7 b6 b5 b4 b3 b2 b1 b0 : Bool,
    decide (BitVec.ofNat 8 (numberOf 0 [b7, b6, b5, b4, b3, b2, b1, b0]) = Config.markerPattern) =
      (!b7 && (b6 && b5 && b4 && b3 && b2 && b1) && !b0) := by
  decide

/-- The chunk of the last eight bits is the marker pattern exactly when the eight bits are those of the marker. -/
theorem markerChunk_iff (ch : Channel) {p : Nat} (hp : 7 ≤ p) :
    BitVec.ofNat 8 (numberOf 0 (bitsFrom ch (p - 7) 8)) = Config.markerPattern ↔ markerAt ch p := by
  have e1 : p - 7 + 1 = p - 6 := by omega
  have e2 : p - 6 + 1 = p - 5 := by omega
  have e3 : p - 5 + 1 = p - 4 := by omega
  have e4 : p - 4 + 1 = p - 3 := by omega
  have e5 : p - 3 + 1 = p - 2 := by omega
  have e6 : p - 2 + 1 = p - 1 := by omega
  have e7 : p - 1 + 1 = p := by omega
  simp only [bitsFrom, e1, e2, e3, e4, e5, e6, e7, markerAt]
  have hall : (∀ k, 1 ≤ k → k ≤ 6 → bitAt ch (p - k) = true) ↔
      (bitAt ch (p - 6) = true ∧ bitAt ch (p - 5) = true ∧ bitAt ch (p - 4) = true ∧ bitAt ch (p - 3) = true ∧
       bitAt ch (p - 2) = true ∧ bitAt ch (p - 1) = true) := by
    constructor
    · intro h
      exact ⟨h 6 (by omega) (by omega), h 5 (by omega) (by omega), h 4 (by omega) (by omega), h 3 (by omega) (by omega),
        h 2 (by omega) (by omega), h 1 (by omega) (by omega)⟩
    · rintro ⟨h6, h5, h4, h3, h2, h1⟩ k hk1 hk6
      interval_cases k <;> assumption
  rw [hall]
  generalize bitAt ch (p - 7) = b7
  generalize bitAt ch (p - 6) = b6
  generalize bitAt ch (p - 5) = b5
  generalize bitAt ch (p - 4) = b4
  generalize bitAt ch (p - 3) = b3
  generalize bitAt ch (p - 2) = b2
  generalize bitAt ch (p - 1) = b1
  generalize bitAt ch p = b0
  rw [← decide_eq_true_iff (p := BitVec.ofNat 8 _ = Config.markerPattern), markerByte]
  simp [and_assoc]

/-- MarkerCheck at a pointer value of the gate: the match is recorded and validated, or nothing changes. -/
theorem markerCheck_eq (P : Config.Params) (s : State) (h1 : 58 ≤ s.bitPointer.toNat) (h2 : s.bitPointer.toNat ≤ 61) :
    markerCheck P s =
      if BitVec.ofNat 8 (numberOf 0 (bitsFrom s.channelA (s.bitPointer.toNat - 7) 8)) = Config.markerPattern
      then parityCheck P s.recordMatch else some s := by
  unfold markerCheck
  rw [chunkBack_of_wf (by decide) h1 h2]
  simp only [Option.bind_eq_bind, Option.bind_some, Config.fieldSpec]
  rfl

theorem markerCheck_of_match {P : Config.Params} {s : State} (h1 : 58 ≤ s.bitPointer.toNat)
    (h2 : s.bitPointer.toNat ≤ 61) (hm : markerAt s.channelA s.bitPointer.toNat) :
    markerCheck P s = parityCheck P s.recordMatch := by
  rw [markerCheck_eq P s h1 h2, if_pos ((markerChunk_iff _ (by omega)).2 hm)]

theorem markerCheck_of_no_match {P : Config.Params} {s : State} (h1 : 58 ≤ s.bitPointer.toNat)
    (h2 : s.bitPointer.toNat ≤ 61) (hm : ¬ markerAt s.channelA s.bitPointer.toNat) : markerCheck P s = some s := by
  rw [markerCheck_eq P s h1 h2, if_neg fun h => hm ((markerChunk_iff _ (by omega)).1 h)]

/-- The number of set bits of a group's data chunks, without the side conditions. -/
def chunkOnesAt (chA : Channel) (p : Nat) : List Config.ChunkSpec → Nat
  | [] => 0
  | c :: cs => onesOf (bitsFrom chA (p - c.offset) c.width) + chunkOnesAt chA p cs

/-- A group's total, without the side conditions. -/
def groupTotalAt (chA chB : Channel) (p : Nat) (g : Config.ParityGroup) : Nat :=
  chunkOnesAt chA p g.chunks + (bitAt chB (p - g.parityOffset)).toNat

theorem chunkOnes_of_wf {cs : List Config.ChunkSpec} (hc : cs.all Config.ChunkSpec.wf = true) {p : Nat} (h1 : 58 ≤ p)
    (h2 : p ≤ 61) (chA : Channel) : chunkOnes chA p cs = some (chunkOnesAt chA p cs) := by
  induction cs with
  | nil => rfl
  | cons c cs ih =>
    simp only [List.all_cons, Bool.and_eq_true] at hc
    simp [chunkOnes, chunkBack_of_wf hc.1 h1 h2, ih hc.2, chunkOnesAt]

theorem groupTotal_of_wf {g : Config.ParityGroup} (hg : g.wf = true) {p : Nat} (h1 : 58 ≤ p) (h2 : p ≤ 61)
    (chA chB : Channel) : groupTotal chA chB p g = some (groupTotalAt chA chB p g) := by
  simp only [Config.ParityGroup.wf, Bool.and_eq_true] at hg
  simp [groupTotal, chunkOnes_of_wf hg.1.1 h1 h2, bitBack_of_wf hg.1.2 h1 h2, groupTotalAt]

/-- The validation of a legal table reports the first group whose total is odd. -/
theorem firstFailure_of_wf {gs : List Config.ParityGroup} (hgs : gs.all Config.ParityGroup.wf = true) {p : Nat}
    (h1 : 58 ≤ p) (h2 : p ≤ 61) (chA chB : Channel) :
    firstFailure chA chB p gs =
      some ((gs.find? fun g => decide (groupTotalAt chA chB p g % 2 = 1)).map Config.ParityGroup.failure) := by
  induction gs with
  | nil => rfl
  | cons g gs ih =>
    simp only [List.all_cons, Bool.and_eq_true] at hgs
    simp only [firstFailure, groupTotal_of_wf hgs.1 h1 h2, Option.bind_eq_bind, Option.bind_some, List.find?_cons]
    by_cases h : groupTotalAt chA chB p g % 2 = 1
    · simp [h]
    · simp [h, ih hgs.2]

/-- A field's byte, without the side conditions. -/
def fieldAt (s : State) (c : Config.ChunkSpec) : Byte :=
  BitVec.ofNat 8 (numberOf 0 (bitsFrom s.channelA (s.bitPointer.toNat - c.offset) c.width))

/-- A DUT1 counter, without the side conditions. -/
def dut1At (s : State) (start : Nat) : BitVec 16 := BitVec.ofNat 16 (onesOf (bitsFrom s.channelB start 8) * 100)

theorem fieldValue_eq (s : State) (f : Config.Field) (h1 : 58 ≤ s.bitPointer.toNat) (h2 : s.bitPointer.toNat ≤ 61) :
    fieldValue s f = some (fieldAt s (Config.fieldSpec f)) := by
  unfold fieldValue
  rw [chunkBack_of_wf (by cases f <;> decide) h1 h2]
  rfl

theorem dut1Counter_eq (s : State) (start : Nat) (h : start + 8 ≤ 64) : dut1Counter s start = some (dut1At s start) := by
  unfold dut1Counter
  rw [chunkRead_eq_some.2 ⟨⟨by decide, by decide, h⟩, rfl⟩]
  rfl

/-- The extracted frame, without the side conditions (43_field_parity.md R191). -/
def frameAt (P : Config.Params) (s : State) (epoch : BitVec 64) : TimeFrame where
  minuteBCD := fieldAt s (Config.fieldSpec .minute)
  hourBCD := fieldAt s (Config.fieldSpec .hour)
  weekdayBCD := fieldAt s (Config.fieldSpec .weekday)
  dateBCD := fieldAt s (Config.fieldSpec .date)
  monthBCD := fieldAt s (Config.fieldSpec .month)
  yearBCD := fieldAt s (Config.fieldSpec .year)
  dstActive := bitAt s.channelB (s.bitPointer.toNat - P.dstActiveOffset)
  dstImminent := bitAt s.channelB (s.bitPointer.toNat - P.dstImminentOffset)
  dut1PositiveMs := dut1At s 1
  dut1NegativeMs := dut1At s 9
  leapSecondIndicator := s.leapSecondIndicator
  frameLengthSeconds := s.frameLengthSeconds
  epochSeconds := epoch

theorem frameAt_epoch (P : Config.Params) (s : State) (e e' : BitVec 64) :
    { frameAt P s e with epochSeconds := e' } = frameAt P s e' := rfl

/-- The frame extracted under legal parameters at a pointer value of the gate. -/
theorem extractFrame_of_wf {P : Config.Params} (hP : P.wf = true) (s : State) (h1 : 58 ≤ s.bitPointer.toNat)
    (h2 : s.bitPointer.toNat ≤ 61) (e : BitVec 64) : extractFrame P s e = some (frameAt P s e) := by
  simp only [Config.Params.wf, Bool.and_eq_true] at hP
  simp only [extractFrame, fieldValue_eq s _ h1 h2, bitBack_of_wf hP.1.1.2 h1 h2, bitBack_of_wf hP.1.2 h1 h2,
    dut1Counter_eq s Config.dut1PositiveStart (by decide), dut1Counter_eq s Config.dut1NegativeStart (by decide),
    Option.bind_eq_bind, Option.bind_some]
  rfl

/-- The state ExtractAndAssemble leaves (43_field_parity.md R191, 44_calendar.md R219). -/
def assembled (P : Config.Params) (s : State) : State :=
  match frameEpoch P (frameAt P s 0#64) with
  | some n => s.commitFrame (frameAt P s (BitVec.ofNat 64 n))
  | none => s.commitFrame (frameAt P s (Config.epochDraw s.draws))

theorem extractAndAssemble_of_wf {P : Config.Params} (hP : P.wf = true) (s : State) (h1 : 58 ≤ s.bitPointer.toNat)
    (h2 : s.bitPointer.toNat ≤ 61) : extractAndAssemble P s = some (assembled P s) := by
  unfold extractAndAssemble
  rw [extractFrame_of_wf hP s h1 h2]
  simp only [Option.bind_eq_bind, Option.bind_some, frameAt_epoch]
  unfold assembled
  generalize frameEpoch P (frameAt P s 0#64) = epoch
  cases epoch <;> rfl

/-- What ExtractAndAssemble can change: `lastFrame`. -/
theorem assembled_frame (P : Config.Params) (s : State) :
    assembled P s = { s with lastFrame := (assembled P s).lastFrame } := by
  unfold assembled
  generalize frameEpoch P (frameAt P s 0#64) = epoch
  cases epoch <;> rfl

/-- The frame that ExtractAndAssemble commits. -/
theorem assembled_lastFrame (P : Config.Params) (s : State) :
    (assembled P s).lastFrame = frameAt P s (match frameEpoch P (frameAt P s 0#64) with
      | some n => BitVec.ofNat 64 n
      | none => Config.epochDraw s.draws) := by
  unfold assembled
  generalize frameEpoch P (frameAt P s 0#64) = epoch
  cases epoch <;> rfl

/-- The verdict of a legal table at a pointer value of the gate: `none` when every group passes. -/
def verdictAt (P : Config.Params) (s : State) : Option ParityOutcome :=
  (P.parityTable.find? fun g => decide (groupTotalAt s.channelA s.channelB s.bitPointer.toNat g % 2 = 1)).map
    Config.ParityGroup.failure

/-- ParityCheck under legal parameters at a pointer value of the gate, for a frame length of at least 58. -/
theorem parityCheck_of_wf {P : Config.Params} (hP : P.wf = true) (s : State) (h1 : 58 ≤ s.bitPointer.toNat)
    (h2 : s.bitPointer.toNat ≤ 61) (hl : 58 ≤ s.frameLengthSeconds.toNat) :
    parityCheck P s = some (match verdictAt P s with
      | some code => s.failParity code
      | none => assembled P s.passParity) := by
  have hgs : P.parityTable.all Config.ParityGroup.wf = true := by
    simp only [Config.Params.wf, Bool.and_eq_true] at hP
    exact hP.1.1.1
  simp only [parityCheck, firstFailure_of_wf hgs h1 h2, Option.bind_eq_bind, Option.bind_some, verdictAt]
  cases (P.parityTable.find? fun g => decide (groupTotalAt s.channelA s.channelB s.bitPointer.toNat g % 2 = 1)).map
      Config.ParityGroup.failure with
  | some code => rfl
  | none => simp [Config.minFrameLength, hl, extractAndAssemble_of_wf hP s.passParity h1 h2]

/-- The default parameters are legal. -/
theorem params_wf : Config.params.wf = true := by decide

theorem recordMatch_length {s : State} (h2 : s.bitPointer.toNat ≤ 61) :
    s.recordMatch.frameLengthSeconds.toNat = s.bitPointer.toNat := by
  simp; omega

/-- The state a marker match leaves (42_marker_detector.md R172, 43_field_parity.md R188, R189). -/
def matched (P : Config.Params) (s : State) : State :=
  match verdictAt P s.recordMatch with
  | some code => s.recordMatch.failParity code
  | none => assembled P s.recordMatch.passParity

/-- MarkerCheck at a pointer value of the gate, whole. -/
theorem markerCheck_of_wf {P : Config.Params} (hP : P.wf = true) (s : State) (h1 : 58 ≤ s.bitPointer.toNat)
    (h2 : s.bitPointer.toNat ≤ 61) :
    (markerAt s.channelA s.bitPointer.toNat → markerCheck P s = some (matched P s)) ∧
    (¬ markerAt s.channelA s.bitPointer.toNat → markerCheck P s = some s) := by
  refine ⟨fun hm => ?_, markerCheck_of_no_match h1 h2⟩
  rw [markerCheck_of_match h1 h2 hm, parityCheck_of_wf hP s.recordMatch h1 h2 (by rw [recordMatch_length h2]; exact h1)]
  rfl

/-- The data symbol's state after its write, before MarkerCheck. -/
def afterWrite (sym : DataSymbol) (f : Bool) (s : State) : State :=
  slotWritten s.prologue.acceptPulse (nextPointer f s.bitPointer) (bitPair sym f).1 (bitPair sym f).2

/-- Everything a data symbol can do under legal parameters: the overflow; a write with no match, or outside the gate; a
write that completes the marker. -/
theorem dataSymbol_cases {P : Config.Params} (hP : P.wf = true) (sym : DataSymbol) (f : Bool) (s : State) :
    (nextPointer f s.bitPointer = 64 ∧ dataSymbol P sym f s = some s.prologue.acceptPulse.frameReset) ∨
    (nextPointer f s.bitPointer < 64 ∧
      ¬ ((58 ≤ nextPointer f s.bitPointer ∧ nextPointer f s.bitPointer ≤ 61) ∧
          markerAt (afterWrite sym f s).channelA (nextPointer f s.bitPointer)) ∧
      dataSymbol P sym f s = some (afterWrite sym f s)) ∨
    (58 ≤ nextPointer f s.bitPointer ∧ nextPointer f s.bitPointer ≤ 61 ∧
      markerAt (afterWrite sym f s).channelA (nextPointer f s.bitPointer) ∧
      dataSymbol P sym f s = some (matched P (afterWrite sym f s))) := by
  have hle := nextPointer_le f s.bitPointer
  by_cases h64 : nextPointer f s.bitPointer = 64
  · exact .inl ⟨h64, by rw [dataSymbol_eq, if_pos h64]⟩
  · have hlt : nextPointer f s.bitPointer < 64 := by omega
    have hp : (afterWrite sym f s).bitPointer.toNat = nextPointer f s.bitPointer := by
      simp only [afterWrite, slotWritten, State.setSlot_bitPointer, toNat_pointer hlt]
    by_cases hg : 58 ≤ nextPointer f s.bitPointer ∧ nextPointer f s.bitPointer ≤ 61
    · have hd : dataSymbol P sym f s = markerCheck P (afterWrite sym f s) := by
        rw [dataSymbol_eq, if_neg h64]; simp only [if_pos hg]; rfl
      have hm := markerCheck_of_wf hP (afterWrite sym f s) (by rw [hp]; exact hg.1) (by rw [hp]; exact hg.2)
      rw [hp] at hm
      by_cases hk : markerAt (afterWrite sym f s).channelA (nextPointer f s.bitPointer)
      · exact .inr (.inr ⟨hg.1, hg.2, hk, by rw [hd, hm.1 hk]⟩)
      · exact .inr (.inl ⟨hlt, fun h => hk h.2, by rw [hd, hm.2 hk]⟩)
    · exact .inr (.inl ⟨hlt, fun h => hg h.1, by rw [dataSymbol_eq, if_neg h64]; simp only [if_neg hg]; rfl⟩)

/-- The operation a data operation is: its symbol and its flag. -/
def dataOperand : Instr → Option (DataSymbol × Bool)
  | .sym1 => some (.one, false)
  | .sym1b => some (.one, true)
  | .sym2 b => some (.two, b)
  | .sym3 b => some (.three, b)
  | .pstart _ => none
  | .discard0 => none
  | .sym4 => none
  | .sym5 => none
  | .long => none

/-- The four data operations run the shared body. -/
theorem exec_dataOperand {i : Instr} {sym : DataSymbol} {f : Bool} (h : dataOperand i = some (sym, f)) (s : State) :
    exec i s = answer (dataSymbol Config.params sym f s) := by
  cases i <;> simp [dataOperand] at h <;> obtain ⟨rfl, rfl⟩ := h <;> rfl

/-- The opcode map has a row for every operation word. -/
theorem decodeOpword_total (w : Opword) (t : Millis) : ∃ i, decodeOpword w t = .instr i := by
  unfold decodeOpword
  have h : ∀ w : Opword, (opcodeMap.find? fun r => r.fits w).isSome = true := by decide
  obtain ⟨r, hr⟩ := Option.isSome_iff_exists.1 (h w)
  exact ⟨r.build w t, by rw [hr]⟩

/-- Decoding does not read what is issued. -/
@[simp] theorem fetchInstr_withInbox (s : State) (l : List Transaction) (e : Edge) :
    fetchInstr (s.withInbox l) e = fetchInstr s e := rfl

/-- Every step is one of four: nothing issued, a decoded operation, `RESET`, `READ`. -/
theorem step_cases (s : State) :
    (s.inbox = [] ∧ step s = .next s) ∨
    (∃ e rest i, s.inbox = .edge e :: rest ∧ fetchInstr s e = .instr i ∧ step s = exec i (s.withInbox rest)) ∨
    (∃ p c rest, s.inbox = .reset p c :: rest ∧ step s = .next ((s.withInbox rest).rearm p c)) ∨
    (∃ rest, s.inbox = .read :: rest ∧ step s = .next (s.withInbox rest).readOutputs) := by
  unfold step takeTransaction
  cases hin : s.inbox with
  | nil => exact .inl ⟨rfl, rfl⟩
  | cons tx rest =>
    cases tx with
    | edge e =>
      obtain ⟨i, hi⟩ := decodeOpword_total (opwordOf s e) e.timestampMillis
      have hf : fetchInstr s e = .instr i := hi
      exact .inr (.inl ⟨e, rest, i, rfl, hf, by simp [hf]⟩)
    | reset p c => exact .inr (.inr (.inl ⟨p, c, rest, rfl, rfl⟩))
    | read => exact .inr (.inr (.inr ⟨rest, rfl, rfl⟩))

end Sys2Proof.Machine
end

