-- ==== Sys2Proof/Laws/Data.lean ====
section
/-! SUPPORT. The machine's chunks, totals and records against the references of Safety.lean, and everything an operation
can do in the terms of the statements. -/

namespace Sys2Proof.Machine

/-- The set bits of a run are those counted index by index. -/
theorem onesOf_bitsFrom (ch : Channel) (s w : Nat) : onesOf (bitsFrom ch s w) = onesIn ch s w := by
  induction w generalizing s with
  | zero => rfl
  | succ w ih =>
    simp only [bitsFrom, onesOf, ih, onesIn, List.range_succ_eq_map, List.filter_cons, List.filter_map]
    have : (fun k => bitAt ch (s + 1 + k)) = ((fun k => bitAt ch (s + k)) ∘ Nat.succ) := by
      funext k; simp only [Function.comp]; congr 1; omega
    rw [this]
    cases bitAt ch s <;> simp; omega

/-- The number of a run of bits is the slice of the 64-bit view, after the digits of `acc`. -/
theorem numberOf_bitsFrom (ch : Channel) (acc s w : Nat) (h : s + w ≤ 64) :
    numberOf acc (bitsFrom ch s w) = acc * 2 ^ w + (ch.extractLsb' (64 - s - w) w).toNat := by
  induction w generalizing acc s with
  | zero => simp [bitsFrom, numberOf]
  | succ w ih =>
    simp only [bitsFrom, numberOf]
    rw [ih _ _ (by omega), bitAt_eq_getLsbD _ (by omega)]
    simp only [BitVec.extractLsb'_toNat]
    rw [show 64 - (s + 1) - w = 64 - s - (w + 1) by omega, Nat.pow_succ 2 w]
    generalize hx : ch.toNat >>> (64 - s - (w + 1)) = x
    have : (ch.getLsbD (63 - s)).toNat = x / 2 ^ w % 2 := by
      rw [← hx, BitVec.getLsbD, Nat.toNat_testBit, Nat.shiftRight_eq_div_pow, Nat.div_div_eq_div_mul, ← Nat.pow_add]
      congr 3; omega
    rw [this, Nat.mod_mul]; ring

/-- A chunk's byte is the slice. -/
theorem byte_bitsFrom (ch : Channel) (s w : Nat) (h : s + w ≤ 64) :
    BitVec.ofNat 8 (numberOf 0 (bitsFrom ch s w)) = sliceByte ch s w := by
  rw [numberOf_bitsFrom ch 0 s w h, sliceByte]
  apply BitVec.eq_of_toNat_eq; simp

/-- The verdict of the default table is the reference's. -/
theorem verdictAt_params (s : State) (h : 58 ≤ s.bitPointer.toNat) :
    verdictAt Config.params s =
      if parityVerdict s.channelA s.channelB s.bitPointer.toNat = .ok then none
      else some (parityVerdict s.channelA s.channelB s.bitPointer.toNat) := by
  have hy : onesIn s.channelA (s.bitPointer.toNat - 42) 8 + 0 + (bitAt s.channelB (s.bitPointer.toNat - 5)).toNat =
      yearTotal s.channelA s.channelB s.bitPointer.toNat := rfl
  have hw : onesIn s.channelA (s.bitPointer.toNat - 23) 3 + 0 + (bitAt s.channelB (s.bitPointer.toNat - 3)).toNat =
      weekdayTotal s.channelA s.channelB s.bitPointer.toNat := rfl
  have hm : onesIn s.channelA (s.bitPointer.toNat - 34) 5 + (onesIn s.channelA (s.bitPointer.toNat - 29) 6 + 0) +
      (bitAt s.channelB (s.bitPointer.toNat - 4)).toNat = monthTotal s.channelA s.channelB s.bitPointer.toNat := by
    unfold monthTotal
    rw [← onesOf_bitsFrom, ← onesOf_bitsFrom, ← onesOf_bitsFrom]
    generalize s.bitPointer.toNat = p at *
    simp only [bitsFrom, onesOf, show p - 29 = p - 34 + 5 by omega, Nat.add_assoc]; ring
  have hh : onesIn s.channelA (s.bitPointer.toNat - 20) 6 + (onesIn s.channelA (s.bitPointer.toNat - 14) 7 + 0) +
      (bitAt s.channelB (s.bitPointer.toNat - 2)).toNat = hourTotal s.channelA s.channelB s.bitPointer.toNat := by
    unfold hourTotal
    rw [← onesOf_bitsFrom, ← onesOf_bitsFrom, ← onesOf_bitsFrom]
    generalize s.bitPointer.toNat = p at *
    simp only [bitsFrom, onesOf, show p - 14 = p - 20 + 6 by omega, Nat.add_assoc]; ring
  unfold verdictAt
  rw [show Config.params.parityTable = Config.defaultParityTable from rfl]
  unfold Config.defaultParityTable parityVerdict
  simp only [List.find?_cons, groupTotalAt, chunkOnesAt, Config.fieldSpec, onesOf_bitsFrom, List.find?_nil, hy, hm, hw, hh]
  generalize yearTotal _ _ _ % 2 = a
  generalize monthTotal _ _ _ % 2 = b
  generalize weekdayTotal _ _ _ % 2 = c
  generalize hourTotal _ _ _ % 2 = d
  by_cases h1 : a = 1
  · simp [h1]
  by_cases h2 : b = 1
  · simp [h1, h2]
  by_cases h3 : c = 1
  · simp [h1, h2, h3]
  by_cases h4 : d = 1
  · simp [h1, h2, h3, h4]
  · simp [h1, h2, h3, h4]

/-- The extracted frame is the reference's. -/
theorem frameAt_params (s : State) (h : 58 ≤ s.bitPointer.toNat) (h' : s.bitPointer.toNat ≤ 61) (e : BitVec 64) :
    frameAt Config.params s e =
      frameOf s.channelA s.channelB s.bitPointer.toNat s.leapSecondIndicator s.frameLengthSeconds e := by
  unfold frameAt frameOf fieldAt dut1At
  simp only [Config.fieldSpec, onesOf_bitsFrom]
  rw [byte_bitsFrom _ _ _ (by omega), byte_bitsFrom _ _ _ (by omega), byte_bitsFrom _ _ _ (by omega),
    byte_bitsFrom _ _ _ (by omega), byte_bitsFrom _ _ _ (by omega), byte_bitsFrom _ _ _ (by omega), Nat.mul_comm 100,
    Nat.mul_comm 100]
  rfl

/-- What a match leaves, by the verdict. -/
theorem matched_params (s : State) (h : 58 ≤ s.bitPointer.toNat) :
    matched Config.params s =
      if parityVerdict s.channelA s.channelB s.bitPointer.toNat = .ok then assembled Config.params s.recordMatch.passParity
      else s.recordMatch.failParity (parityVerdict s.channelA s.channelB s.bitPointer.toNat) := by
  unfold matched
  rw [verdictAt_params s.recordMatch h]
  show (match (if parityVerdict s.channelA s.channelB s.bitPointer.toNat = .ok then none
    else some (parityVerdict s.channelA s.channelB s.bitPointer.toNat)) with | some code => _ | none => _) = _
  split <;> rename_i hv <;> split at hv <;> simp_all

/-- The frame of a match: the registers it can write. -/
theorem matched_frame (P : Config.Params) (s : State) :
    matched P s = { s with
      frameReady := (matched P s).frameReady
      parityOutcome := (matched P s).parityOutcome
      frameLengthSeconds := BitVec.ofNat 8 s.bitPointer.toNat
      leapSecondIndicator := leapPolicy s.bitPointer.toNat
      lastFrame := (matched P s).lastFrame } := by
  unfold matched
  cases verdictAt P s.recordMatch with
  | some c => rfl
  | none =>
    show assembled P _ = { s with
      frameReady := (assembled P s.recordMatch.passParity).frameReady
      parityOutcome := (assembled P s.recordMatch.passParity).parityOutcome
      frameLengthSeconds := _
      leapSecondIndicator := _
      lastFrame := (assembled P s.recordMatch.passParity).lastFrame }
    have h1 : (assembled P s.recordMatch.passParity).frameReady = true := by rw [assembled_frame]; rfl
    have h2 : (assembled P s.recordMatch.passParity).parityOutcome = .ok := by rw [assembled_frame]; rfl
    rw [h1, h2, assembled_frame]; rfl

/-- The state after a data symbol's write of a bit pair at a slot. -/
def pairWritten (s : State) (p : Nat) (a b : Bool) : State :=
  { s with
    bitPointer := BitVec.ofNat 6 p
    channelA := assignBit s.channelA p a
    channelB := assignBit s.channelB p b
    lastPulseStartMillis := s.pendingPulseStartMillis
    timeAvailable := false }

theorem pairWritten_pointer {s : State} {p : Nat} {a b : Bool} (h : p < 64) :
    (pairWritten s p a b).bitPointer.toNat = p := toNat_pointer h

/-- The table of bit pairs and the operations' own operands agree. -/
theorem dataOperand_of_dataPair {i : Instr} {a b f : Bool} (h : dataPair i = some (a, b, f)) :
    ∃ sym, dataOperand i = some (sym, f) ∧ bitPair sym f = (a, b) := by
  cases i with
  | sym1 => simp [dataPair] at h; obtain ⟨rfl, rfl, rfl⟩ := h; exact ⟨.one, rfl, rfl⟩
  | sym1b => simp [dataPair] at h; obtain ⟨rfl, rfl, rfl⟩ := h; exact ⟨.one, rfl, rfl⟩
  | sym2 c => simp [dataPair] at h; obtain ⟨rfl, rfl, rfl⟩ := h; exact ⟨.two, rfl, by cases c <;> rfl⟩
  | sym3 c => simp [dataPair] at h; obtain ⟨rfl, rfl, rfl⟩ := h; exact ⟨.three, rfl, by cases c <;> rfl⟩
  | _ => simp [dataPair] at h

/-- The marker stands in the written channel exactly when the symbol completes it. -/
theorem completesMarker_iff (s : State) (a b f : Bool) :
    ((58 ≤ slotOf f s ∧ slotOf f s ≤ 61) ∧ markerAt (pairWritten s (slotOf f s) a b).channelA (slotOf f s)) ↔
      completesMarker a f s := by
  unfold completesMarker
  by_cases hg : 58 ≤ slotOf f s ∧ slotOf f s ≤ 61
  · show (_ ∧ markerAt (assignBit s.channelA (slotOf f s) a) _) ↔ _
    unfold markerAt
    generalize slotOf f s = p at *
    rw [bitAt_assignBit _ _ (by omega) (by omega), bitAt_assignBit _ _ (by omega) (by omega), if_neg (by omega), if_pos rfl]
    have : (∀ k, 1 ≤ k → k ≤ 6 → bitAt (assignBit s.channelA p a) (p - k) = true) ↔
        ∀ k, 1 ≤ k → k ≤ 6 → bitAt s.channelA (p - k) = true := by
      refine forall_congr' fun k => forall_congr' fun h1 => forall_congr' fun h2 => ?_
      rw [bitAt_assignBit _ _ (by omega) (by omega), if_neg (by omega)]
    rw [this]; tauto
  · tauto

/-- Everything a data symbol can do: the overflow; a write that completes no marker; a write that completes it. -/
inductive DataCase (s : State) (i : Instr) (a b f : Bool) : Prop
  | overflow (hf : f = false) (hp : s.bitPointer = 63) (h : exec i s = .next s.prologue.acceptPulse.frameReset)
  | write (hl : slotOf f s < 64) (hm : ¬ completesMarker a f s) (h : exec i s = .next (pairWritten s (slotOf f s) a b))
  | hit (hl : slotOf f s < 64) (hm : completesMarker a f s)
      (h : exec i s = .next (matched Config.params (pairWritten s (slotOf f s) a b)))

theorem exec_dataPair {s : State} {i : Instr} {a b f : Bool} (h : dataPair i = some (a, b, f)) : DataCase s i a b f := by
  obtain ⟨sym, ho, hb⟩ := dataOperand_of_dataPair h
  have he := exec_dataOperand ho s
  have hw : afterWrite sym f s = pairWritten s (slotOf f s) a b := by unfold afterWrite; rw [hb]; rfl
  have hs : nextPointer f s.bitPointer = slotOf f s := rfl
  have hc := dataSymbol_cases params_wf sym f s
  rw [hw, hs, completesMarker_iff] at hc
  rcases hc with ⟨h64, hd⟩ | ⟨hlt, hm, hd⟩ | ⟨h58, h61, hm, hd⟩
  · rw [hd, answer_some] at he
    have : f = false ∧ s.bitPointer = 63 := by
      unfold slotOf at h64
      have := s.bitPointer.isLt
      cases f
      · simp at h64; exact ⟨rfl, BitVec.eq_of_toNat_eq (by simp; omega)⟩
      · simp at h64; omega
    exact .overflow this.1 this.2 he
  · exact .write hlt hm (by rw [he, hd, answer_some])
  · exact .hit (by omega) ((completesMarker_iff s a b f).1 ⟨⟨h58, h61⟩, hm⟩) (by rw [he, hd, answer_some])

/-- The operation of a pulse end by its length code, in the order of 30_encoding.md R95. -/
theorem decode_pulseEnd (c : Int) (b : Bool) (t : Millis) : decodeOpword (pulseEndOpword c b) t = .instr
    (if c ≤ 0 then .discard0 else if c = 1 then (if b then .sym1b else .sym1) else if c = 2 then .sym2 b
     else if c = 3 then .sym3 b else if c = 4 then .sym4 else if c = 5 then .sym5 else .long) := by
  by_cases h0 : c ≤ 0
  · have : saturateCode c = 0 := by unfold saturateCode; omega
    unfold pulseEndOpword; rw [this]; cases b <;> simp [h0] <;> rfl
  by_cases h1 : c ≤ 7
  · interval_cases c <;> cases b <;> rfl
  · have : saturateCode c = 7 := by unfold saturateCode; omega
    unfold pulseEndOpword; rw [this]
    rw [if_neg h0, if_neg (by omega), if_neg (by omega), if_neg (by omega), if_neg (by omega), if_neg (by omega)]
    cases b <;> rfl

/-- A pulse end decodes by its length code and `bOnlyFlag` (30_encoding.md R93, R94). -/
theorem fetchInstr_end {s : State} {e : Edge} (h : e.level ≠ s.carrierOffLevel) :
    fetchInstr s e = decodeOpword (pulseEndOpword (lengthCode s e.timestampMillis) s.bOnlyFlag) e.timestampMillis := by
  simp [fetchInstr, opwordOf, isStart, h]

end Sys2Proof.Machine
end

