-- ==== Sys2Proof/Laws/PerInstr.lean ====
section
/-! SUPPORT. Decoding the bytes the encoder writes gives the operation back, one lemma per constructor. -/

namespace Sys2Proof.Laws.RoundTrip

/-- Decoding the encoding of an operation gives the operation. -/
def Statement (i : Instr) : Prop := i.wf = true → decodeBytes (encode i) = .instr i

theorem pstart (t : Millis) : Statement (.pstart t) := by
  intro _
  have h : t.extractLsb' 24 8 ++ t.extractLsb' 16 8 ++ t.extractLsb' 8 8 ++ t.extractLsb' 0 8 = t := by
    apply BitVec.eq_of_getLsbD_eq
    intro i hi
    simp only [BitVec.getLsbD_append, BitVec.getLsbD_extractLsb']
    split
    · rename_i h; simp [h]
    · split
      · rename_i h1 h2; simp [show i - 8 < 8 by omega, show 8 + (i - 8) = i by omega]
      · split
        · rename_i h1 h2 h3; simp [show i - 8 - 8 < 8 by omega, show 16 + (i - 8 - 8) = i by omega]
        · rename_i h1 h2 h3
          simp [show i - 8 - 8 - 8 < 8 by omega, show 24 + (i - 8 - 8 - 8) = i by omega]
  simp only [encode, encodeOpword, encodeOperand, decodeBytes, h]
  rfl

theorem discard0 : Statement .discard0 := fun _ => rfl

theorem sym1 : Statement .sym1 := fun _ => rfl

theorem sym1b : Statement .sym1b := fun _ => rfl

theorem sym2 (b : Bool) : Statement (.sym2 b) := by intro _; cases b <;> rfl

theorem sym3 (b : Bool) : Statement (.sym3 b) := by intro _; cases b <;> rfl

theorem sym4 : Statement .sym4 := fun _ => rfl

theorem sym5 : Statement .sym5 := fun _ => rfl

theorem long : Statement .long := fun _ => rfl

end Sys2Proof.Laws.RoundTrip
end

