-- ==== Sys2Proof/Tests/Slice0.lean ====
section
/-! SUPPORT. Checks of the model's own against the spec's test vectors (95_test_vectors.md), the refusals of the
well-formedness checks, and for every statement with hypotheses a state and operands that meet them. -/

namespace Sys2Proof.Tests

open Sys2Proof.Machine

/-- The state an outcome leaves, for a test to look at. -/
def landed : Host.Outcome State Fault Refusal → Option State
  | .next s => some s
  | .fault _ => none
  | .refused _ => none

/-- The `EDGE` of a 33-bit word. -/
def word (w : Nat) : Edge := Edge.ofWord (BitVec.ofNat 33 w)

/-! ## Well-formedness: what each check refuses -/

theorem test_wf_opword : rawOpwordWf 31 = true ∧ rawOpwordWf 32 = false := by decide

theorem test_wf_edge : rawEdgeWf (2 ^ 33 - 1) = true ∧ rawEdgeWf (2 ^ 33) = false := by decide

theorem test_wf_chunk : Config.ChunkSpec.wf { offset := 7, width := 8 } = true ∧
    Config.ChunkSpec.wf { offset := 7, width := 0 } = false ∧ Config.ChunkSpec.wf { offset := 7, width := 9 } = false ∧
    Config.ChunkSpec.wf { offset := 59, width := 1 } = false ∧ Config.ChunkSpec.wf { offset := 4, width := 8 } = false := by
  decide

theorem test_wf_offset : Config.offsetWf 58 = true ∧ Config.offsetWf 59 = false := by decide

theorem test_wf_group :
    Config.ParityGroup.wf { failure := .ok, chunks := [], parityOffset := 5 } = false ∧
    Config.ParityGroup.wf { failure := .hourFailed, chunks := [{ offset := 7, width := 0 }], parityOffset := 5 } = false ∧
    Config.ParityGroup.wf { failure := .hourFailed, chunks := [], parityOffset := 59 } = false := by
  decide

theorem test_wf_params :
    Config.Params.wf Config.params = true ∧
    Config.Params.wf { Config.params with monthDays := [31] } = false ∧
    Config.Params.wf { Config.params with dstActiveOffset := 59 } = false ∧
    Config.Params.wf { Config.params with dstImminentOffset := 59 } = false ∧
    Config.Params.wf { Config.params with parityTable := [{ failure := .ok, chunks := [], parityOffset := 5 }] } = false := by
  decide

/-! ## Decoding: the words of 30_encoding.md R95, written out -/

theorem test_decode_pstart : decodeTableWord 8 0b10000 = some (.pstart 0) ∧ decodeTableWord 8 0b11111 = some (.pstart 0) := by
  decide

theorem test_decode_pstart_operand : decodeTableWord 40 0x0000271010 = some (.pstart 10000) := by decide

theorem test_decode_discard0 : decodeTableWord 8 0b00000 = some .discard0 ∧ decodeTableWord 8 0b00001 = some .discard0 := by
  decide

theorem test_decode_sym1 : decodeTableWord 8 0b00010 = some .sym1 ∧ decodeTableWord 8 0b00011 = some .sym1b := by decide

theorem test_decode_sym2 :
    decodeTableWord 8 0b00100 = some (.sym2 false) ∧ decodeTableWord 8 0b00101 = some (.sym2 true) := by decide

theorem test_decode_sym3 :
    decodeTableWord 8 0b00110 = some (.sym3 false) ∧ decodeTableWord 8 0b00111 = some (.sym3 true) := by decide

theorem test_decode_sym4_sym5 :
    decodeTableWord 8 0b01000 = some .sym4 ∧ decodeTableWord 8 0b01001 = some .sym4 ∧
    decodeTableWord 8 0b01010 = some .sym5 ∧ decodeTableWord 8 0b01011 = some .sym5 := by decide

theorem test_decode_long : decodeTableWord 8 0b01100 = some .long ∧ decodeTableWord 8 0b01101 = some .long ∧
    decodeTableWord 8 0b01110 = some .long ∧ decodeTableWord 8 0b01111 = some .long := by decide

theorem test_decode_rejects : decodeBytes [0x20#8, 0#8, 0#8, 0#8, 0#8] = .rejected .notAnOpword ∧
    decodeBytes [0x10#8] = .rejected .truncated := by decide

/-- The state of 95_test_vectors.md V1 to V13. -/
def classifying : State :=
  { State.reset with
    pendingPulseStartMillis := 20000, bitPointer := 5, lastPulseStartMillis := 5000, timeAvailable := true }

/-- V1, V2, V4, V6, V8, V10, V12 and the end of V3: the shortest and longest durations by their `EDGE` words. -/
theorem test_decode_edges :
    fetchInstr classifying (word 0x000004E83) = .instr .discard0 ∧
    fetchInstr classifying (word 0x000004E84) = .instr .sym1 ∧
    fetchInstr classifying (word 0x000004EE7) = .instr .sym1 ∧
    fetchInstr classifying (word 0x000004EE8) = .instr (.sym2 false) ∧
    fetchInstr classifying (word 0x000004F4C) = .instr (.sym3 false) ∧
    fetchInstr classifying (word 0x000004FB0) = .instr .sym4 ∧
    fetchInstr classifying (word 0x000005014) = .instr .sym5 ∧
    fetchInstr classifying (word 0x000005078) = .instr .long := by decide +kernel

/-- V16, V19, V20, V21: a negative length code, a saturated one, the wrap of the clock, and a clock set back. -/
theorem test_length_codes :
    lengthCode { classifying with paddingMs := BitVec.ofInt 16 (-50) } 20020 = -1 ∧
    lengthCode { classifying with paddingMs := 32767 } 20000 = 327 ∧
    lengthCode { classifying with pendingPulseStartMillis := 4294967246 } 50 = 1 ∧
    lengthCode classifying 19000 = 42949662 := by decide +kernel

/-! ## One step of each operation -/

/-- V23, V24: the window is strict. -/
theorem test_pstart_window :
    (landed (exec (.pstart 11299) { State.reset with lastPulseStartMillis := 11000 })).map State.bOnlyFlag = some true ∧
    (landed (exec (.pstart 11300) { State.reset with lastPulseStartMillis := 11000 })).map State.bOnlyFlag = some false := by
  decide +kernel

/-- V26, V29: the difference wraps. -/
theorem test_pstart_wraps :
    (landed (exec (.pstart 0) { State.reset with lastPulseStartMillis := 4294967096 })).map State.bOnlyFlag = some true ∧
    (landed (exec (.pstart 10999) { State.reset with lastPulseStartMillis := 11000 })).map State.bOnlyFlag = some false := by
  decide +kernel

/-- V1: a DISCARD0 by its `EDGE`. -/
theorem test_discard0 :
    landed (step { classifying with inbox := [.edge (word 0x000004E83)] }) = some { classifying with timeAvailable := false } := by
  decide +kernel

/-- V8: a SYM4 by its `EDGE`. -/
theorem test_sym4 :
    landed (step { classifying with inbox := [.edge (word 0x000004FB0)] }) = some { classifying with timeAvailable := false } := by
  decide +kernel

/-- V12: a LONG by its `EDGE`. -/
theorem test_long :
    landed (step { classifying with inbox := [.edge (word 0x000005078)] }) = some { classifying with timeAvailable := false } := by
  decide +kernel

/-- V120's pulse end: the pair (0, 0) in the next slot. -/
theorem test_sym1_writes :
    landed (exec .sym1 { State.reset with pendingPulseStartMillis := 11000 }) =
      some { State.reset with
        pendingPulseStartMillis := 11000, lastPulseStartMillis := 11000, bitPointer := 1
        channelA := 0xBFFFFFFFFFFFFFFF } := by decide +kernel

/-- V127's pulse end: the 64th advancing symbol is dropped. -/
theorem test_sym1_overflow :
    (landed (exec .sym1 { State.reset with bitPointer := 63, channelA := 0x8000000000000000, frameReady := true })).map
        (fun t => (t.bitPointer, t.channelA, t.channelB, t.frameReady)) =
      some (0#6, 0xFFFFFFFFFFFFFFFF#64, 0#64, true) := by decide +kernel

/-- V122's pulse end: the pair (0, 1) in the slot already written. -/
theorem test_sym1b_rewrites :
    (landed (exec .sym1b { State.reset with bitPointer := 1, channelA := 0xBFFFFFFFFFFFFFFF })).map
        (fun t => (t.bitPointer, t.channelA, t.channelB)) =
      some (1#6, 0xBFFFFFFFFFFFFFFF#64, 0x4000000000000000#64) := by decide +kernel

/-- V129's pulse end: a flagged symbol at pointer 63 does not overflow. -/
theorem test_sym1b_at_63 :
    (landed (exec .sym1b { State.reset with bitPointer := 63, channelA := 0x8000000000000000 })).map
        (fun t => (t.bitPointer, t.channelA, t.channelB)) =
      some (63#6, 0x8000000000000000#64, 1#64) := by decide +kernel

/-- V121's and V124's pulse ends: a new slot, and the slot already written. -/
theorem test_sym2 :
    (landed (exec (.sym2 false) { State.reset with bitPointer := 1, channelA := 0xBFFFFFFFFFFFFFFF })).map
        (fun t => (t.bitPointer, t.channelA, t.channelB)) = some (2#6, 0xBFFFFFFFFFFFFFFF#64, 0#64) ∧
    (landed (exec (.sym2 true)
        { State.reset with bitPointer := 3, channelA := 0xBFFFFFFFFFFFFFFF, channelB := 0x1000000000000000 })).map
        (fun t => (t.bitPointer, t.channelA, t.channelB)) = some (3#6, 0xBFFFFFFFFFFFFFFF#64, 0#64) := by decide +kernel

/-- V123's and V125's pulse ends. -/
theorem test_sym3 :
    (landed (exec (.sym3 false) { State.reset with bitPointer := 2, channelA := 0xBFFFFFFFFFFFFFFF })).map
        (fun t => (t.bitPointer, t.channelA, t.channelB)) =
      some (3#6, 0xBFFFFFFFFFFFFFFF#64, 0x1000000000000000#64) ∧
    (landed (exec (.sym3 true) { State.reset with bitPointer := 3, channelA := 0xBFFFFFFFFFFFFFFF })).map
        (fun t => (t.bitPointer, t.channelA, t.channelB)) =
      some (3#6, 0xBFFFFFFFFFFFFFFF#64, 0x1000000000000000#64) := by decide +kernel

/-- V131's pulse end: the hand-off. -/
theorem test_sym5_hands_off :
    landed (exec .sym5 { State.reset with
        bitPointer := 59, channelA := 0x800000000000000F, frameReady := true, pendingPulseStartMillis := 70000 }) =
      some { State.reset with
        timeAvailable := true, lastPulseStartMillis := 70000, pendingPulseStartMillis := 70000, draws := 1 } := by
  decide +kernel

/-- V130's pulse end: no frame is ready. -/
theorem test_sym5_without_frame :
    (landed (exec .sym5 { State.reset with bitPointer := 30, timeAvailable := true })).map State.timeAvailable =
      some false := by decide +kernel

/-! ## Marker, parity, fields and calendar -/

/-- The state before the last symbol of V41, the 59-second frame of 2023-06-15 14:30. -/
def beforeMatch : State :=
  { State.reset with bitPointer := 58, channelA := 0x8000119956A307FF, channelB := 0x0000000000000300 }

/-- The state before the last symbol of V54: `A[39]` flipped, so that the hour group is odd. -/
def beforeBadMatch : State := { beforeMatch with channelA := 0x8000119957A307FF }

/-- The frame of `beforeMatch` with its month bits and month parity bit cleared: month 0, every group even. -/
def beforeUnspecified : State := { beforeMatch with channelA := 0x8000118156A307FF }

/-- V41. -/
theorem test_match :
    landed (exec .sym1 beforeMatch) = some { beforeMatch with
      bitPointer := 59, channelA := 0x8000119956A307EF, frameReady := true, frameLengthSeconds := 59
      lastFrame := ⟨0x30, 0x14, 3, 0x15, 6, 0x23, false, false, 0, 0, .zero, 59, 1686839400⟩ } := by decide +kernel

/-- V54. -/
theorem test_parity_failure :
    landed (exec .sym1 beforeBadMatch) = some { beforeBadMatch with
      bitPointer := 59, channelA := 0x8000119957A307EF, frameLengthSeconds := 59, parityOutcome := .hourFailed } := by
  decide +kernel

/-- 44_calendar.md R219: the frame is committed, its `epochSeconds` the frame's free value. -/
theorem test_unspecified_epoch :
    (landed (exec .sym1 beforeUnspecified)).map
        (fun t => (t.frameReady, t.lastFrame.monthBCD, t.lastFrame.yearBCD)) = some (true, 0x00, 0x23) := by
  decide +kernel

/-- 42_marker_detector.md R177: the match, a flagged rewrite that undoes it, and one that matches again leave one record,
with the frame's free value. -/
theorem test_repeated_match :
    (landed (runOps [.sym1, .sym2 true, .pstart 5, .sym1b] beforeUnspecified)).map
        (fun t => (t.lastFrame, t.frameReady, t.channelB)) =
      (landed (exec .sym1 beforeUnspecified)).map (fun t => (t.lastFrame, t.frameReady, t.channelB ||| 0x10#64)) := by
  rfl

/-- V100, V105, V106, V109, V110. -/
theorem test_chunks :
    chunkRead 0x8000119956A307EF 17 8 = some { value := 0x23, count := 3 } ∧
    chunkRead 0x8000119956A307EF 45 7 = some { value := 0x30, count := 2 } ∧
    chunkRead 0x8000119956A307EF 52 8 = some { value := 0x7E, count := 6 } ∧
    chunkRead 0x8000119956A307EF 56 8 = some { value := 0xEF, count := 7 } ∧
    chunkRead 0x8000119956A307EF 0 1 = some { value := 0x01, count := 1 } := by decide +kernel

/-- V71, V74, V77, V83, V84, V86. -/
theorem test_calendar :
    epochSeconds Config.params 0x00 0x03 0x01 0x00 0x00 = some 951868800 ∧
    epochSeconds Config.params 0x24 0x02 0x29 0x23 0x59 = some 1709251140 ∧
    epochSeconds Config.params 0x99 0x0C 0x01 0x00 0x00 = some 4099766400 ∧
    epochSeconds Config.params 0xFF 0x12 0x3F 0x3F 0x7F = some 5239722300 ∧
    epochSeconds Config.params 0x23 0x1F 0x01 0x00 0x00 = none ∧
    epochSeconds Config.params 0x23 0x06 0x00 0x00 0x00 = none := by decide +kernel

/-- The DUT1 counters and the two status bits: three ones in the positive window, one in the negative, and each status bit alone. -/
theorem test_dut1_and_dst :
    (extractFrame Config.params { beforeMatch with bitPointer := 59, channelB := 0x7040000000000400 } 0).map
        (fun f => (f.dut1PositiveMs, f.dut1NegativeMs, f.dstActive, f.dstImminent)) =
      some (300#16, 100#16, false, true) ∧
    (extractFrame Config.params { beforeMatch with bitPointer := 59, channelB := 0x0000000000000020 } 0).map
        (fun f => (f.dut1PositiveMs, f.dut1NegativeMs, f.dstActive, f.dstImminent)) =
      some (0#16, 0#16, true, false) := by decide +kernel

/-! ## Reset, read, and the trace notation -/

/-- V145. -/
theorem test_reset_then_read :
    (landed (Sys2Proof.core.run 2 { classifying with inbox := [.reset 0 true, .read] })).map State.readings =
      some [⟨false, TimeFrame.zero, .ok, .zero, 0⟩] := by decide +kernel

/-- V120's statement and words. -/
theorem test_trace_pulse :
    assembleTrace true [.pulse 11000 100] = [.edge (word 0x100002AF8), .edge (word 0x000002B5C)] := by decide

/-- V146's words under the other polarity. -/
theorem test_trace_polarity :
    assembleTrace true [.reset (BitVec.ofInt 16 (-20)) false, .minute 5000] =
      [.reset (BitVec.ofInt 16 (-20)) false, .edge (word 0x000001388), .edge (word 0x10000157C)] := by decide

/-- The host's fetch: the table's word for SYM5, right after reset. -/
theorem test_fetch_word :
    landed (step (State.reset.withFetchWord 8 0x0A)) = landed (exec .sym5 State.reset) := by decide +kernel

/-! ## Witnesses: for every statement with hypotheses, what meets them all, at the ends of its clauses' ranges -/

/-- A state with a pulse pending since 20000 under a padding and a B-only flag. -/
def pending (padding : BitVec 16) (flag : Bool) : State :=
  { State.reset with paddingMs := padding, pendingPulseStartMillis := 20000, bOnlyFlag := flag }

/-- The pulse end `d` ms after 20000, under `carrierOffLevel` = 1. -/
def endAfter (d : Millis) : Edge := { level := false, timestampMillis := 20000 + d }

/-- The length code of that pulse, as the statements write it. -/
def codeOf (s : State) (e : Edge) : Int :=
  Int.fdiv (((e.timestampMillis - s.pendingPulseStartMillis).toNat : Int) + s.paddingMs.toInt) 100

theorem landed_eq {o : Host.Outcome State Fault Refusal} {t : State} (h : landed o = some t) : o = .next t := by
  cases o <;> simp [landed] at h
  rw [h]

theorem witness_ResetTransactionSetsEveryRegister :
    ({ classifying with inbox := [.reset 0xFFEC false, .read] } : State).inbox = .reset 0xFFEC false :: [.read] := rfl

theorem witness_ResetStateIsWhatTheDefaultResetLeaves :
    let s : State := { classifying with inbox := [.reset 0 true] }
    s.inbox = [.reset 0#16 true] ∧ s.readings = [] := by decide

theorem witness_NoTransactionLeavesTheState : classifying.inbox = [] := rfl

theorem witness_ReadCopiesTheOutputsAndChangesNothing :
    ({ classifying with inbox := [.read] } : State).inbox = .read :: [] := rfl

/-- Every clause of the two tables of durations, at both ends of its range. -/
theorem witness_EdgeDecodesByLengthCode :
    (word 0x100004E20).level = State.reset.carrierOffLevel ∧
    (∀ d f, (endAfter d).level ≠ (pending 0 f).carrierOffLevel) ∧
    codeOf (pending 0xFFCE false) (endAfter 0) = -1 ∧
    (∀ f, codeOf (pending 0 f) (endAfter 0) = 0 ∧ codeOf (pending 0 f) (endAfter 99) = 0 ∧
      codeOf (pending 0 f) (endAfter 100) = 1 ∧ codeOf (pending 0 f) (endAfter 199) = 1 ∧
      codeOf (pending 0 f) (endAfter 200) = 2 ∧ codeOf (pending 0 f) (endAfter 299) = 2 ∧
      codeOf (pending 0 f) (endAfter 300) = 3 ∧ codeOf (pending 0 f) (endAfter 399) = 3 ∧
      codeOf (pending 0 f) (endAfter 400) = 4 ∧ codeOf (pending 0 f) (endAfter 499) = 4 ∧
      codeOf (pending 0 f) (endAfter 500) = 5 ∧ codeOf (pending 0 f) (endAfter 599) = 5 ∧
      codeOf (pending 0 f) (endAfter 600) = 6 ∧ (pending 0 f).paddingMs = 0) := by
  refine ⟨by decide, fun _ _ => Bool.false_ne_true, by decide +kernel, by decide +kernel⟩

theorem witness_TruncatingTheQuotientSelectsTheSameOperation :
    (endAfter 0).level ≠ (pending 0xFFCE false).carrierOffLevel := by decide

theorem witness_StepRunsTheDecodedOperation :
    let s : State := { classifying with inbox := [.edge (word 0x000005014), .read] }
    s.inbox = .edge (word 0x000005014) :: [.read] ∧ fetchInstr s (word 0x000005014) = .instr .sym5 := by decide +kernel

theorem witness_DecodingTheEncodedOperationGivesItBack :
    Instr.wf (.pstart 10000) = true ∧ Instr.wf (.sym2 true) = true ∧ opwordS 0x00#5 = false ∧ opwordS 0x0F#5 = false := by
  decide

theorem witness_FetchedTableWordIsRunNext :
    decodeTableWord 8 0x10 = some (.pstart 0) ∧ decodeTableWord 8 0x0F = some .long := by decide

theorem witness_PstartLatchesTheStartAndTheFlag :
    let s : State := { State.reset with lastPulseStartMillis := 11000, inbox := [.edge (word 0x100002C23)] }
    s.inbox = .edge (word 0x100002C23) :: [] ∧ (word 0x100002C23).level = s.carrierOffLevel := by decide

/-- Both ends of SYM5's range. -/
theorem witness_Sym5HandsOverAndStartsAFrame :
    let s (d : Millis) : State := { pending 0 false with inbox := [.edge (endAfter d)] }
    (∀ d, (s d).inbox = .edge (endAfter d) :: [] ∧ (endAfter d).level ≠ (s d).carrierOffLevel) ∧
    codeOf (s 500) (endAfter 500) = 5 ∧ codeOf (s 599) (endAfter 599) = 5 := by
  refine ⟨fun d => ⟨rfl, Bool.false_ne_true⟩, by decide +kernel, by decide +kernel⟩

/-- The three clauses: codes 0, 4 and 6. -/
theorem witness_DiscardedPulseOnlyClearsTimeAvailable :
    let s (d : Millis) : State := { pending 0 false with inbox := [.edge (endAfter d)] }
    (∀ d, (s d).inbox = .edge (endAfter d) :: [] ∧ (endAfter d).level ≠ (s d).carrierOffLevel) ∧
    codeOf (s 99) (endAfter 99) = 0 ∧ codeOf (s 400) (endAfter 400) = 4 ∧ codeOf (s 600) (endAfter 600) = 6 := by
  refine ⟨fun d => ⟨rfl, Bool.false_ne_true⟩, by decide +kernel, by decide +kernel, by decide +kernel⟩

/-- The overflow, and both cases beside it. -/
theorem witness_OverflowResetsTheFrameOnly :
    dataPair .sym1 = some (false, false, false) ∧ ({ State.reset with bitPointer := 63 } : State).bitPointer = 63 ∧
    dataPair .sym1b = some (false, true, true) ∧ ({ State.reset with bitPointer := 62 } : State).bitPointer ≠ 63 := by
  decide

theorem witness_DataSymbolWritesItsPairAtItsSlot :
    dataPair (.sym3 true) = some (true, true, true) ∧
    dataPair (.sym2 false) = some (true, false, false) ∧
    ({ State.reset with bitPointer := 62 } : State).bitPointer.toNat < 63 := by decide

/-- Codes 1 and 3, with the flag set and clear, at pointer 63 and below it. -/
theorem witness_PointerFollowsTheBOnlyFlag :
    let s (d : Millis) (f : Bool) (p : Pointer) : State :=
      { pending 0 f with bitPointer := p, inbox := [.edge (endAfter d)] }
    (∀ d f p, (s d f p).inbox = .edge (endAfter d) :: [] ∧ (endAfter d).level ≠ (s d f p).carrierOffLevel) ∧
    (∀ f, codeOf (s 100 f 63) (endAfter 100) = 1 ∧ codeOf (s 399 f 62) (endAfter 399) = 3) := by
  exact ⟨fun _ _ _ => ⟨rfl, Bool.false_ne_true⟩, by decide +kernel⟩

/-- A slot below the gate, where no marker can be completed. -/
theorem witness_NoMatchLeavesEveryStatusRegister :
    dataPair .sym1 = some (false, false, false) ∧ State.reset.bitPointer.toNat < 63 ∧
    ¬ completesMarker false false State.reset := by
  refine ⟨by decide, by decide, fun h => absurd h.1 (by decide)⟩

/-- V47: inside the gate, but one bit of the pattern is wrong. -/
theorem witness_NoMatchLeavesEveryStatusRegister_in_gate :
    ({ beforeMatch with channelA := 0x8000119956A303FF } : State).bitPointer.toNat < 63 ∧
    ¬ completesMarker false false { beforeMatch with channelA := 0x8000119956A303FF } := by
  refine ⟨by decide, fun h => ?_⟩
  have := h.2.2.2.1 6 (by decide) (by decide)
  revert this; decide +kernel

theorem completes_of {s : State} {a f : Bool} (h : decide (58 ≤ slotOf f s ∧ slotOf f s ≤ 61 ∧
    bitAt s.channelA (slotOf f s - 7) = false ∧
    (bitAt s.channelA (slotOf f s - 1) && bitAt s.channelA (slotOf f s - 2) && bitAt s.channelA (slotOf f s - 3) &&
      bitAt s.channelA (slotOf f s - 4) && bitAt s.channelA (slotOf f s - 5) && bitAt s.channelA (slotOf f s - 6)) = true ∧
    a = false) = true) : completesMarker a f s := by
  have h := of_decide_eq_true h
  refine ⟨h.1, h.2.1, h.2.2.1, fun k h1 h6 => ?_, h.2.2.2.2⟩
  have hb := h.2.2.2.1
  simp only [Bool.and_eq_true] at hb
  interval_cases k <;> tauto

/-- A passing frame, at the pointer of V41, by a symbol of each kind that can end the marker. -/
theorem witness_MatchRecordsLengthLeapAndVerdict :
    dataPair .sym1 = some (false, false, false) ∧ completesMarker false false beforeMatch ∧
    dataPair .sym1b = some (false, true, true) ∧ completesMarker false true { beforeMatch with bitPointer := 59 } := by
  refine ⟨by decide, completes_of (by decide +kernel), by decide, completes_of (by decide +kernel)⟩

/-- The gate's ends: the channels of V40 and V43 before their last symbol, at slots 58 and 61. -/
theorem witness_MatchRecordsLengthLeapAndVerdict_at_the_ends :
    completesMarker false false { State.reset with bitPointer := 57, channelA := 0x80002332AD460FFF } ∧
    completesMarker false false { State.reset with bitPointer := 60, channelA := 0x8000046655A8C1FF } := by
  refine ⟨completes_of (by decide +kernel), completes_of (by decide +kernel)⟩

theorem witness_ParityFailureKeepsTheLastFrame :
    dataPair .sym1 = some (false, false, false) ∧ completesMarker false false beforeBadMatch ∧
    (∀ k, k < 64 → bitAt 0x8000119957A307EF k = if k = slotOf false beforeBadMatch then false else
      bitAt beforeBadMatch.channelA k) ∧
    (∀ k, k < 64 → bitAt 0x0000000000000300 k = if k = slotOf false beforeBadMatch then false else
      bitAt beforeBadMatch.channelB k) ∧
    parityVerdict 0x8000119957A307EF 0x0000000000000300 (slotOf false beforeBadMatch) ≠ .ok := by
  refine ⟨by decide, completes_of (by decide +kernel), by decide +kernel, by decide +kernel, by decide +kernel⟩

/-- The clause with a calendar value. -/
theorem witness_ParitySuccessCommitsTheFrame :
    dataPair .sym1 = some (false, false, false) ∧ completesMarker false false beforeMatch ∧
    (∀ k, k < 64 → bitAt 0x8000119956A307EF k = if k = slotOf false beforeMatch then false else
      bitAt beforeMatch.channelA k) ∧
    (∀ k, k < 64 → bitAt 0x0000000000000300 k = if k = slotOf false beforeMatch then false else
      bitAt beforeMatch.channelB k) ∧
    parityVerdict 0x8000119956A307EF 0x0000000000000300 (slotOf false beforeMatch) = .ok ∧
    epochSeconds Config.params (sliceByte 0x8000119956A307EF 17 8) (sliceByte 0x8000119956A307EF 25 5)
      (sliceByte 0x8000119956A307EF 30 6) (sliceByte 0x8000119956A307EF 39 6) (sliceByte 0x8000119956A307EF 45 7) =
      some 1686839400 := by
  refine ⟨by decide, completes_of (by decide +kernel), by decide +kernel, by decide +kernel, by decide +kernel,
    by decide +kernel⟩

/-- The clause without one: month 0. -/
theorem witness_ParitySuccessCommitsTheFrame_unspecified :
    completesMarker false false beforeUnspecified ∧
    (∀ k, k < 64 → bitAt 0x8000118156A307EF k = if k = slotOf false beforeUnspecified then false else
      bitAt beforeUnspecified.channelA k) ∧
    parityVerdict 0x8000118156A307EF 0x0000000000000300 (slotOf false beforeUnspecified) = .ok ∧
    epochSeconds Config.params (sliceByte 0x8000118156A307EF 17 8) (sliceByte 0x8000118156A307EF 25 5)
      (sliceByte 0x8000118156A307EF 30 6) (sliceByte 0x8000118156A307EF 39 6) (sliceByte 0x8000118156A307EF 45 7) =
      none := by
  refine ⟨completes_of (by decide +kernel), by decide +kernel, by decide +kernel, by decide +kernel⟩

/-- A match with an unspecified `epochSeconds`, and an operation of each kind after it. -/
theorem witness_RepeatedMatchProducesAnEqualRecord :
    dataPair .sym1 = some (false, false, false) ∧ completesMarker false false beforeUnspecified ∧
    (∀ j ∈ [Instr.discard0, .pstart 5, .sym2 true, .sym1b], staysOnSlot j = true) := by
  refine ⟨by decide, completes_of (by decide +kernel), by decide⟩

/-- The default table at both ends of the gate. -/
theorem witness_ValidationReportsTheFirstOddGroup :
    (∀ g ∈ Config.defaultParityTable, g.wf = true) ∧ 58 ≤ 58 ∧ 61 ≤ 61 := by decide

/-- A passing frame, and the four groups with the ends of their ranges of data bits. -/
theorem witness_OneFlippedBitIsReportedAndTwoAreNot :
    firstFailure 0x8000119956A307EF 0x0000000000000300 59 Config.params.parityTable = some none ∧
    (59 - 42 ≤ 17 ∧ 17 ≤ 24 ∧ 24 ≤ 59 - 35) ∧ (59 - 34 ≤ 25 ∧ 25 ≤ 35 ∧ 35 ≤ 59 - 24) ∧
    (59 - 23 ≤ 36 ∧ 36 ≤ 38 ∧ 38 ≤ 59 - 21) ∧ (59 - 20 ≤ 39 ∧ 39 ≤ 51 ∧ 51 ≤ 59 - 8) := by decide +kernel

theorem witness_MarkerMatchesAtOnePointerOnly :
    (chunkRead 0x80002332AD460FDF (58 - 7) 8).map Chunk.value = some 0x7E#8 ∧
    (chunkRead 0x800008CCAB5183F7 (60 - 7) 8).map Chunk.value = some 0x7E#8 := by decide +kernel

/-- The ends of the ranges of start and width, and a failure of each side condition. -/
theorem witness_ChunkReadIsARightAlignedSlice :
    (1 ≤ 1 ∧ 1 ≤ 8 ∧ 63 + 1 ≤ 64) ∧ (1 ≤ 8 ∧ 8 ≤ 8 ∧ 56 + 8 ≤ 64) ∧ ¬ (1 ≤ 0 ∧ 0 ≤ 8 ∧ 0 + 0 ≤ 64) ∧
    ¬ (1 ≤ 9 ∧ 9 ≤ 8 ∧ 0 + 9 ≤ 64) ∧ ¬ (1 ≤ 8 ∧ 8 ≤ 8 ∧ 57 + 8 ≤ 64) := by decide

theorem witness_ChannelIndexIsMostSignificantFirst :
    bitRead 0x8000000000000000 0 = some true ∧ bitRead 0x0000000000000001 63 = some true := by decide

theorem witness_BitWriteAssignsOneBit :
    (bitWrite 0 0 true).isSome = true ∧ (bitWrite 0 63 true).isSome = true ∧ bitWrite 0 64 true = none := by decide

theorem witness_BcdToDecimalIsTensAndOnes : bcdToDecimal (bcd 0) = 0 ∧ bcdToDecimal (bcd 99) = 99 := by decide

theorem witness_LeapYearsAreTestedOnTheCalendarYear : isLeap 162 = true ∧ isLeap 130 = false ∧ isLeap 165 = false := by
  decide

/-- The ends of the month and the date, the two sides of the year rule, and each case without a value. -/
theorem witness_EpochSecondsIsTheSumOfElapsedTime :
    (bcdToDecimal 0x99 ≤ 99 ∧ ¬ bcdToDecimal 0xA0 ≤ 99) ∧
    (1 ≤ bcdToDecimal 0x01 ∧ bcdToDecimal 0x12 ≤ 12) ∧
    (bcdToDecimal 0x00 = 0 ∧ 12 < bcdToDecimal 0x13) := by decide

/-- The first and the last day, and a 29 February. -/
theorem witness_EpochSecondsAgreesWithTheCivilCalendar :
    (0 < 100 ∧ 1 ≤ civilMonthLength 2000 1) ∧ (99 < 100 ∧ 31 ≤ civilMonthLength 2099 12) ∧
    29 ≤ civilMonthLength 2024 2 ∧ ¬ 29 ≤ civilMonthLength 2023 2 := by decide

theorem witness_EpochSecondsStaysInItsRange :
    ((0x12 : Byte).toNat ≤ 0x1F ∧ (0x3F : Byte).toNat ≤ 0x3F ∧ (0x7F : Byte).toNat ≤ 0x7F ∧
      epochSeconds Config.params 0xFF 0x12 0x3F 0x3F 0x7F = some 5239722300) ∧
    epochSeconds Config.params (bcd 99) (bcd 12) (bcd 31) (bcd 23) (bcd 59) = some 4102444740 := by decide +kernel

/-- A state with the frame of V41 ready, before the minute boundary that hands it over. -/
def readyState : State :=
  { beforeMatch with
    bitPointer := 59, channelA := 0x8000119956A307EF, frameReady := true, frameLengthSeconds := 59
    lastFrame := ⟨0x30, 0x14, 3, 0x15, 6, 0x23, false, false, 0, 0, .zero, 59, 1686839400⟩
    pendingPulseStartMillis := 70000, inbox := [.edge (word 0x000011364)] }

/-- The state that V131's pulse end leaves of it. -/
def handedOver : State :=
  { readyState with
    bitPointer := 0, channelA := 0xFFFFFFFFFFFFFFFF, channelB := 0, frameReady := false, timeAvailable := true
    lastPulseStartMillis := 70000, inbox := [], draws := 1 }

theorem readyState_step : step readyState = .next handedOver := landed_eq (by decide +kernel)

theorem readyState_performs : Performs readyState .sym5 [] := ⟨word 0x000011364, rfl, by decide +kernel⟩

/-- A state with a frame ready, and a step from it. -/
theorem witness_EveryStepKeepsTheInvariant : Inv readyState ∧ step readyState = .next handedOver where
  left :=
    { idle := by decide +kernel
      ready := fun _ => ⟨rfl, by decide, by decide, rfl, rfl⟩
      available := fun h => absurd h (by decide)
      fresh := fun h => absurd h (by decide)
      length := .inr (by decide)
      leap := by decide
      last := .inr
        { minute := by decide, hour := by decide, weekday := by decide, date := by decide, month := by decide
          positive := ⟨0, by decide⟩, negative := ⟨0, by decide⟩, lengthMin := by decide, lengthMax := by decide
          leap := by decide
          epoch := fun n h => by
            have : epochSeconds Config.params 0x23 0x06 0x15 0x14 0x30 = some 1686839400 := by decide +kernel
            exact Option.some.inj (this.symm.trans h) } }
  right := readyState_step

theorem witness_OnlyResetChangesTheConfiguration :
    (∃ t, step { readyState with inbox := [.reset 0xFFEC false] } = .next t ∧ t.carrierOffLevel = false) ∧
    (∃ t, step readyState = .next t) := ⟨⟨_, rfl, rfl⟩, _, readyState_step⟩

/-- A PSTART, and an operation that accepts the pulse. -/
theorem witness_TimingRegistersHaveOnlyTheirWriters :
    (∃ t, step { readyState with inbox := [.edge (word 0x100011170)] } = .next t) ∧
    handedOver.lastPulseStartMillis ≠ readyState.lastPulseStartMillis ∧ step readyState = .next handedOver :=
  ⟨⟨{ readyState with inbox := [] }, landed_eq (by decide +kernel)⟩, by decide, readyState_step⟩

/-- The rise at a minute boundary, and a later pulse end that clears it. -/
theorem witness_TimeAvailableRisesOnlyAtAMinuteBoundary :
    (step readyState = .next handedOver ∧ handedOver.timeAvailable = true ∧ Performs readyState .sym5 []) ∧
    (∃ t, step { handedOver with inbox := [.edge (word 0x000011198)] } = .next t ∧
      (word 0x000011198).level ≠ handedOver.carrierOffLevel ∧
      ¬ Performs { handedOver with inbox := [.edge (word 0x000011198)] } .sym5 []) := by
  refine ⟨⟨readyState_step, rfl, readyState_performs⟩, { handedOver with timeAvailable := false }, landed_eq (by decide +kernel),
    by decide, ?_⟩
  rintro ⟨e, h, hf⟩
  cases h
  revert hf; decide +kernel

/-- Cleared by SYM5, set by a validated match. -/
theorem witness_FrameReadyHasOnlyItsWriters :
    (step readyState = .next handedOver ∧ handedOver.frameReady ≠ readyState.frameReady) ∧
    (∃ t, exec .sym1 beforeMatch = .next t ∧ t.frameReady ≠ beforeMatch.frameReady ∧
      step { beforeMatch with pendingPulseStartMillis := 69000, inbox := [.edge (word 0x000010DEC)] } =
        .next { t with pendingPulseStartMillis := 69000, lastPulseStartMillis := 69000 }) := by
  refine ⟨⟨readyState_step, by decide⟩, _, landed_eq (t := { beforeMatch with
      bitPointer := 59, channelA := 0x8000119956A307EF, frameReady := true, frameLengthSeconds := 59
      lastFrame := readyState.lastFrame }) (by decide +kernel), by decide, landed_eq (by decide +kernel)⟩

/-- Written by a validated match (V41's last word), and by `RESET`. -/
theorem witness_LastFrameIsWrittenOnlyAtAValidatedMatch :
    (∃ t, step { beforeMatch with pendingPulseStartMillis := 69000, inbox := [.edge (word 0x000010DEC)] } = .next t ∧
      t.lastFrame ≠ beforeMatch.lastFrame) ∧
    (∃ t, step { readyState with inbox := [.reset 0 true] } = .next t ∧ t.lastFrame ≠ readyState.lastFrame) := by
  refine ⟨⟨{ readyState with
      pendingPulseStartMillis := 69000, lastPulseStartMillis := 69000, inbox := [] }, landed_eq (by decide +kernel),
      by decide⟩, ⟨_, rfl, by decide⟩⟩

theorem witness_OnlyDifferencesOfTimesMatter : readyState.inbox = .edge (word 0x000011364) :: [] := rfl

/-- A whole frame of 63 seconds, and none at the last slot. -/
theorem witness_SecondsSentFillTheSlotsInOrder :
    State.reset.bitPointer.toNat + (List.replicate 63 (true, false)).length ≤ 63 ∧
    ({ State.reset with bitPointer := 63 } : State).bitPointer.toNat + ([] : List (Bool × Bool)).length ≤ 63 := by decide

/-- The boundary of the window and the last slot. -/
theorem witness_SecondStatementWritesTheNextSlot :
    let s : State := { State.reset with bitPointer := 62, lastPulseStartMillis := 700, inbox := secAt true 1000 false true }
    s.paddingMs = 0 ∧ 300 ≤ (1000 - s.lastPulseStartMillis).toNat ∧ s.bitPointer.toNat < 63 ∧
      s.inbox = secAt s.carrierOffLevel 1000 false true := by decide

end Sys2Proof.Tests
end

section
/-! O11: the forward equation of a step whose port begins with an `EDGE` (00_scope.md R7, 30_encoding.md R98). -/

namespace Sys2Proof.Proofs.Scope

open Sys2Proof.Machine

/-- The oldest transaction is taken, and the port keeps the others. -/
theorem takeTransaction_of_inbox_cons {s : State} {tx : Transaction} {rest : List Transaction}
    (hin : s.inbox = tx :: rest) : takeTransaction s = some (tx, s.withInbox rest) := by
  simp only [takeTransaction, hin]

/-- The `EDGE` is decoded after it was taken from the port; decoding does not read the port, so it may as well be decoded
in the state before. -/
theorem step_of_inbox_edge {s : State} {e : Edge} {rest : List Transaction} {i : Instr}
    (hin : s.inbox = .edge e :: rest) (hf : fetchInstr s e = .instr i) : step s = exec i (s.withInbox rest) := by
  have hf' : fetchInstr (s.withInbox rest) e = .instr i := (fetchInstr_withInbox s rest e).trans hf
  simp only [step, takeTransaction_of_inbox_cons hin, hf']

/-- Settles O11, by the equation of a step with an `EDGE` waiting. -/
theorem stepRunsTheDecodedOperation : Obligations.StepRunsTheDecodedOperation := by
  intro s e rest i hin hf
  exact step_of_inbox_edge hin hf

end Sys2Proof.Proofs.Scope
end

section
/-! The statements about the registers (10_state.md). First, said once, everything an operation and a step can leave; then
the invariant (O36, O37), the writers of the timing registers and of `frameReady` (O39, O41), `RESET` (O1), the port and
the consumer's `READ`s (O43), and the slots of a list of seconds (O45). -/

namespace Sys2Proof.Proofs.Registers

open Sys2Proof.Machine

/-! ## What one operation and one step can leave -/

/-- The states an operation can leave, by the operation and, for a data symbol, by what its slot brings about. -/
inductive ExecCase (s : State) : Instr → State → Prop
  | start (u : Millis) : ExecCase s (.pstart u) (s.latchStart u)
  | discard {i : Instr} (hi : i = .discard0 ∨ i = .sym4 ∨ i = .long) : ExecCase s i s.prologue
  | boundary : ExecCase s .sym5 s.prologue.acceptPulse.handOff.frameReset
  | overflow {i : Instr} {a b f : Bool} (hd : dataPair i = some (a, b, f)) (hp : slotOf f s = 64) :
      ExecCase s i s.prologue.acceptPulse.frameReset
  | write {i : Instr} {a b f : Bool} (hd : dataPair i = some (a, b, f)) (hl : slotOf f s < 64)
      (hm : ¬ completesMarker a f s) : ExecCase s i (pairWritten s (slotOf f s) a b)
  | hit {i : Instr} {a b f : Bool} (hd : dataPair i = some (a, b, f)) (hm : completesMarker a f s) :
      ExecCase s i (matched Config.params (pairWritten s (slotOf f s) a b))

theorem exec_answers (i : Instr) (s : State) : ∃ t, exec i s = .next t ∧ ExecCase s i t := by
  cases hd : dataPair i with
  | some abf =>
    obtain ⟨a, b, f⟩ := abf
    cases exec_dataPair hd with
    | overflow hf hp h => exact ⟨_, h, .overflow hd (by simp [slotOf, hf, hp])⟩
    | write hl hm h => exact ⟨_, h, .write hd hl hm⟩
    | hit hl hm h => exact ⟨_, h, .hit hd hm⟩
  | none =>
    cases i with
    | pstart u => exact ⟨_, rfl, .start u⟩
    | discard0 => exact ⟨_, rfl, .discard (.inl rfl)⟩
    | sym4 => exact ⟨_, rfl, .discard (.inr (.inl rfl))⟩
    | long => exact ⟨_, rfl, .discard (.inr (.inr rfl))⟩
    | sym5 => exact ⟨_, rfl, .boundary⟩
    | sym1 => cases hd
    | sym1b => cases hd
    | sym2 c => cases hd
    | sym3 c => cases hd

/-- The cases exclude each other, so each of them determines what the operation leaves. -/
theorem exec_of_execCase {s t : State} {i : Instr} (hc : ExecCase s i t) : exec i s = .next t := by
  cases hc with
  | start u => rfl
  | discard hi => rcases hi with rfl | rfl | rfl <;> rfl
  | boundary => rfl
  | overflow hd hp =>
    cases exec_dataPair (s := s) hd with
    | overflow _ _ h => exact h
    | write hl _ _ => omega
    | hit hl _ _ => omega
  | write hd hl hm =>
    cases exec_dataPair (s := s) hd with
    | overflow hf hp _ => simp [slotOf, hf, hp] at hl
    | write _ _ h => exact h
    | hit _ hm' _ => exact absurd hm' hm
  | hit hd hm =>
    cases exec_dataPair (s := s) hd with
    | overflow hf hp _ => exact absurd hm.2.1 (by simp [slotOf, hf, hp])
    | write _ hm' _ => exact absurd hm hm'
    | hit _ _ h => exact h

theorem exec_eq_next {s t : State} {i : Instr} : exec i s = .next t ↔ ExecCase s i t := by
  refine ⟨fun h => ?_, exec_of_execCase⟩
  obtain ⟨u, hu, hc⟩ := exec_answers i s
  obtain rfl : u = t := by simpa [hu] using h
  exact hc

/-- The states a step can leave, by the transaction it performs. -/
inductive StepCase (s : State) : State → Prop
  | idle (hin : s.inbox = []) : StepCase s s
  | operation {i : Instr} {rest : List Transaction} {t : State} (hp : Performs s i rest)
      (ht : ExecCase (s.withInbox rest) i t) : StepCase s t
  | reset {p : BitVec 16} {c : Bool} {rest : List Transaction} (hin : s.inbox = .reset p c :: rest) :
      StepCase s ((s.withInbox rest).rearm p c)
  | read {rest : List Transaction} (hin : s.inbox = .read :: rest) : StepCase s (s.withInbox rest).readOutputs

theorem stepCase_of_step {s t : State} (h : step s = .next t) : StepCase s t := by
  rcases step_cases s with ⟨hin, hs⟩ | ⟨e, rest, i, hin, hf, hs⟩ | ⟨p, c, rest, hin, hs⟩ | ⟨rest, hin, hs⟩
  · obtain rfl : s = t := by simpa [hs] using h
    exact .idle hin
  · exact .operation ⟨e, hin, hf⟩ (exec_eq_next.1 (hs ▸ h))
  · obtain rfl : (s.withInbox rest).rearm p c = t := by simpa [hs] using h
    exact .reset hin
  · obtain rfl : (s.withInbox rest).readOutputs = t := by simpa [hs] using h
    exact .read hin

/-! ## RESET -/

/-- `RESET` leaves the registers of `State.reset`, but for the configuration; the rest is the model's own. -/
theorem rearm_eq (s : State) (p : BitVec 16) (c : Bool) :
    s.rearm p c = { State.reset with
      paddingMs := p, carrierOffLevel := c, inbox := s.inbox, readings := s.readings, draws := s.draws + 1 } := rfl

theorem step_of_inbox_reset {s : State} {p : BitVec 16} {c : Bool} {rest : List Transaction}
    (hin : s.inbox = .reset p c :: rest) : step s = .next ((s.withInbox rest).rearm p c) := by
  simp only [step, Scope.takeTransaction_of_inbox_cons hin, performReset]

/-- Settles O1, by the registers that `RESET` leaves. -/
theorem resetTransactionSetsEveryRegister : Obligations.ResetTransactionSetsEveryRegister := by
  intro s p c rest hin
  rw [step_of_inbox_reset hin, rearm_eq]
  rfl

/-! ## The writers of the timing registers and of `frameReady` -/

/-! `matched_frame` field by field: what a match leaves unchanged. -/

theorem matched_pendingPulseStartMillis (P : Config.Params) (s : State) :
    (matched P s).pendingPulseStartMillis = s.pendingPulseStartMillis := by rw [matched_frame]

theorem matched_lastPulseStartMillis (P : Config.Params) (s : State) :
    (matched P s).lastPulseStartMillis = s.lastPulseStartMillis := by rw [matched_frame]

theorem matched_bOnlyFlag (P : Config.Params) (s : State) : (matched P s).bOnlyFlag = s.bOnlyFlag := by
  rw [matched_frame]

theorem matched_bitPointer (P : Config.Params) (s : State) : (matched P s).bitPointer = s.bitPointer := by
  rw [matched_frame]

theorem matched_channelA (P : Config.Params) (s : State) : (matched P s).channelA = s.channelA := by rw [matched_frame]

theorem matched_channelB (P : Config.Params) (s : State) : (matched P s).channelB = s.channelB := by rw [matched_frame]

theorem assembled_frameReady (P : Config.Params) (s : State) : (assembled P s).frameReady = s.frameReady := by
  rw [assembled_frame]

theorem matched_frameReady {s : State} (h : 58 ≤ s.bitPointer.toNat) :
    (matched Config.params s).frameReady =
      decide (parityVerdict s.channelA s.channelB s.bitPointer.toNat = .ok) := by
  rw [matched_params s h]
  split
  · next hok => rw [assembled_frameReady, hok]; rfl
  · next hbad => simp [hbad]

theorem handOff_frameReady_eq_false (s : State) : s.handOff.frameReady = false := by
  cases h : s.frameReady <;> simp [h]

/-- The timing registers after an operation: PSTART takes the pending start, a data symbol and SYM5 accept the pulse, and
a discard leaves them. -/
theorem execCase_timing {s t : State} {i : Instr} (hc : ExecCase s i t) :
    (∃ u, i = .pstart u ∧ t.pendingPulseStartMillis = u ∧ t.lastPulseStartMillis = s.lastPulseStartMillis) ∨
    (t.pendingPulseStartMillis = s.pendingPulseStartMillis ∧ t.bOnlyFlag = s.bOnlyFlag ∧
      (t.lastPulseStartMillis = s.lastPulseStartMillis ∨
        (t.lastPulseStartMillis = s.pendingPulseStartMillis ∧ (i = .sym5 ∨ (dataPair i).isSome = true)))) := by
  cases hc with
  | start u => exact .inl ⟨u, rfl, rfl, rfl⟩
  | discard hi => exact .inr ⟨rfl, rfl, .inl rfl⟩
  | boundary => exact .inr ⟨rfl, rfl, .inr ⟨rfl, .inl rfl⟩⟩
  | overflow hd hp => exact .inr ⟨rfl, rfl, .inr ⟨rfl, .inr (by simp [hd])⟩⟩
  | write hd hl hm => exact .inr ⟨rfl, rfl, .inr ⟨rfl, .inr (by simp [hd])⟩⟩
  | hit hd hm =>
    exact .inr ⟨matched_pendingPulseStartMillis _ _, matched_bOnlyFlag _ _,
      .inr ⟨matched_lastPulseStartMillis _ _, .inr (by simp [hd])⟩⟩

/-- Settles O39, by the transaction performed and the operation's effect on the timing registers. -/
theorem timingRegistersHaveOnlyTheirWriters : Obligations.TimingRegistersHaveOnlyTheirWriters := by
  intro s t h
  cases stepCase_of_step h with
  | idle hin => exact .inr (.inr ⟨rfl, rfl, .inl rfl⟩)
  | reset hin => exact .inl ⟨_, _, _, hin⟩
  | read hin => exact .inr (.inr ⟨rfl, rfl, .inl rfl⟩)
  | operation hp hc =>
    rcases execCase_timing hc with ⟨u, rfl, hpend, hlast⟩ | ⟨hpend, hflag, hlast | ⟨hlast, hi⟩⟩
    · exact .inr (.inl ⟨u, _, hp, hpend, hlast⟩)
    · exact .inr (.inr ⟨hpend, hflag, .inl hlast⟩)
    · exact .inr (.inr ⟨hpend, hflag, .inr ⟨hlast, _, _, hp, hi⟩⟩)

/-- `frameReady` after an operation: SYM5 clears it, a match sets it to its verdict, and nothing else writes it. -/
theorem execCase_frameReady {s t : State} {i : Instr} (hc : ExecCase s i t) :
    t.frameReady = s.frameReady ∨ (i = .sym5 ∧ t.frameReady = false) ∨
    (∃ a b f, dataPair i = some (a, b, f) ∧ completesMarker a f s ∧
      t.frameReady = decide (parityVerdict t.channelA t.channelB (slotOf f s) = .ok)) := by
  cases hc with
  | start u => exact .inl rfl
  | discard hi => exact .inl rfl
  | boundary => exact .inr (.inl ⟨rfl, handOff_frameReady_eq_false _⟩)
  | overflow hd hp => exact .inl rfl
  | write hd hl hm => exact .inl rfl
  | @hit _ a b f hd hm =>
    have hptr : (pairWritten s (slotOf f s) a b).bitPointer.toNat = slotOf f s :=
      pairWritten_pointer (Nat.lt_of_le_of_lt hm.2.1 (by decide))
    refine .inr (.inr ⟨a, b, f, hd, hm, ?_⟩)
    rw [matched_frameReady (by rw [hptr]; exact hm.1), matched_channelA, matched_channelB, hptr]

/-- Settles O41, by the transaction performed and the operation's effect on `frameReady`. -/
theorem frameReadyHasOnlyItsWriters : Obligations.FrameReadyHasOnlyItsWriters := by
  intro s t h hne
  cases stepCase_of_step h with
  | idle hin => exact absurd rfl hne
  | reset hin => exact .inl ⟨_, _, _, hin, rfl⟩
  | read hin => exact absurd rfl hne
  | operation hp hc =>
    rcases execCase_frameReady hc with hsame | ⟨rfl, hclear⟩ | ⟨a, b, f, hd, hm, hready⟩
    · exact absurd hsame hne
    · exact .inr (.inl ⟨_, hp, hclear⟩)
    · exact .inr (.inr ⟨_, a, b, f, _, hp, hd, hm, hready⟩)

/-! ## The records a match produces -/

theorem bcdToDecimal_le (b : Byte) : bcdToDecimal b ≤ 165 := by
  have := b.isLt
  unfold bcdToDecimal
  omega

theorem offsetYear_le {y : Nat} (h : y ≤ 165) : offsetYear y ≤ 165 := by
  unfold offsetYear Config.twoDigitYearOffset
  split <;> omega

theorem leapsBefore_le (o : Nat) : leapsBefore o ≤ o := by
  induction o with
  | zero => exact le_rfl
  | succ o ih =>
    have := (isLeap o).toNat_le
    simp only [leapsBefore]
    omega

theorem daysInMonth_le (i o : Nat) : daysInMonth Config.params i o ≤ 31 := by
  unfold daysInMonth
  split
  · decide
  · rw [List.getD_eq_getElem?_getD]
    cases hget : Config.params.monthDays[i - 1]? with
    | none => decide
    | some d =>
      have hall : ∀ d ∈ Config.params.monthDays, d ≤ 31 := by decide
      exact hall d (List.mem_of_getElem? hget)

theorem daysOfMonths_le (o n : Nat) : daysOfMonths Config.params o n ≤ 31 * n := by
  induction n with
  | zero => exact le_rfl
  | succ n ih =>
    have := daysInMonth_le (n + 1) o
    simp only [daysOfMonths]
    omega

/-- A value of EpochSeconds fits the 64 bits of `epochSeconds`, whatever the five bytes are. -/
theorem epochSeconds_lt {year month date hour minute : Byte} {n : Nat}
    (h : epochSeconds Config.params year month date hour minute = some n) : n < 2 ^ 64 := by
  have hyear := offsetYear_le (bcdToDecimal_le year)
  have hleaps := leapsBefore_le (offsetYear (bcdToDecimal year))
  have hmonths := daysOfMonths_le (offsetYear (bcdToDecimal year)) (bcdToDecimal month - 1)
  have hmonth := bcdToDecimal_le month
  have hdate := bcdToDecimal_le date
  have hhour := bcdToDecimal_le hour
  have hminute := bcdToDecimal_le minute
  simp only [epochSeconds, Option.ite_none_left_eq_some, Option.some.injEq] at h
  omega

theorem sliceByte_lt (ch : Channel) (s w : Nat) : (sliceByte ch s w).toNat < 2 ^ w := by
  rw [sliceByte, BitVec.toNat_setWidth]
  exact Nat.lt_of_le_of_lt (Nat.mod_le _ _) (BitVec.isLt _)

/-- A DUT1 counter is a hundred for each of at most eight bits (43_field_parity.md R194). -/
theorem dut1_hundreds (ch : Channel) (lo : Nat) :
    ∃ k, k ≤ 8 ∧ (BitVec.ofNat 16 (100 * onesIn ch lo 8)).toNat = 100 * k := by
  have hle : onesIn ch lo 8 ≤ 8 := by
    simpa [onesIn] using List.length_filter_le (fun k => bitAt ch (lo + k)) (List.range 8)
  exact ⟨onesIn ch lo 8, hle, by rw [BitVec.toNat_ofNat]; omega⟩

/-- The record of the channels is one the block can produce, when its length, its leap indicator and its epoch are. -/
theorem produced_frameOf {chA chB : Channel} {p : Nat} {length : Byte} {epoch : BitVec 64}
    (hmin : 58 ≤ length.toNat) (hmax : length.toNat ≤ 61)
    (hepoch : ∀ n, frameEpoch Config.params (frameOf chA chB p (leapOf length.toNat) length epoch) = some n →
      epoch = BitVec.ofNat 64 n) : Produced (frameOf chA chB p (leapOf length.toNat) length epoch) where
  minute := Nat.le_of_lt_succ (sliceByte_lt chA (p - 14) 7)
  hour := Nat.le_of_lt_succ (sliceByte_lt chA (p - 20) 6)
  weekday := Nat.le_of_lt_succ (sliceByte_lt chA (p - 23) 3)
  date := Nat.le_of_lt_succ (sliceByte_lt chA (p - 29) 6)
  month := Nat.le_of_lt_succ (sliceByte_lt chA (p - 34) 5)
  positive := dut1_hundreds chB 1
  negative := dut1_hundreds chB 9
  lengthMin := hmin
  lengthMax := hmax
  leap := rfl
  epoch n hn := by
    show epoch.toNat = n
    rw [hepoch n hn, BitVec.toNat_ofNat, Nat.mod_eq_of_lt (epochSeconds_lt hn)]

/-- The record committed is the one of the channels, with the calendar's epoch wherever the calendar gives one. -/
theorem assembled_lastFrame_frameOf (s : State) (h58 : 58 ≤ s.bitPointer.toNat) (h61 : s.bitPointer.toNat ≤ 61) :
    ∃ epoch, (assembled Config.params s).lastFrame =
        frameOf s.channelA s.channelB s.bitPointer.toNat s.leapSecondIndicator s.frameLengthSeconds epoch ∧
      ∀ n, frameEpoch Config.params (frameOf s.channelA s.channelB s.bitPointer.toNat s.leapSecondIndicator
        s.frameLengthSeconds epoch) = some n → epoch = BitVec.ofNat 64 n := by
  rw [assembled_lastFrame]
  simp only [frameAt_params s h58 h61]
  refine ⟨_, rfl, fun n hn => ?_⟩
  have hn' : frameEpoch Config.params (frameOf s.channelA s.channelB s.bitPointer.toNat s.leapSecondIndicator
      s.frameLengthSeconds 0#64) = some n := hn
  rw [hn']

/-! ## The invariant -/

/-- The invariant does not speak of the configuration, the timing registers or the model's own fields. -/
theorem inv_of_same_frame {s : State} (h : Inv s) (padding : BitVec 16) (level : Bool) (last pending : Millis)
    (flag : Bool) (inbox : List Transaction) (readings : List Outputs) (draws : Nat) :
    Inv { s with
      paddingMs := padding, carrierOffLevel := level, lastPulseStartMillis := last, pendingPulseStartMillis := pending
      bOnlyFlag := flag, inbox := inbox, readings := readings, draws := draws } :=
  ⟨h.idle, h.ready, h.available, h.fresh, h.length, h.leap, h.last⟩

theorem idle_of_frameReset (s : State) (i : Nat) (hi : i < 64) :
    bitAt s.frameReset.channelA i = true ∧ bitAt s.frameReset.channelB i = false :=
  ⟨bitAt_fill_true hi, bitAt_fill_false i⟩

/-- Settles O36: every slot is idle, no flag is set and nothing has been recorded. -/
theorem resetSatisfiesTheInvariant : Obligations.ResetSatisfiesTheInvariant where
  idle i hi _ := idle_of_frameReset State.reset i hi
  ready h := by cases h
  available h := by cases h
  fresh h := by cases h
  length := .inl rfl
  leap := rfl
  last := .inl rfl

theorem inv_rearm (s : State) (p : BitVec 16) (c : Bool) : Inv (s.rearm p c) :=
  inv_of_same_frame resetSatisfiesTheInvariant p c _ _ _ s.inbox s.readings (s.draws + 1)

theorem inv_prologue {s : State} (h : Inv s) : Inv s.prologue where
  idle := h.idle
  ready := h.ready
  available hav := by cases hav
  fresh hav := by cases hav
  length := h.length
  leap := h.leap
  last := h.last

theorem inv_acceptPulse {s : State} (h : Inv s) : Inv s.acceptPulse := inv_of_same_frame h _ _ _ _ _ _ _ _

/-- A frame that begins keeps the outputs, and every slot is idle. -/
theorem inv_frameReset {s : State} (h : Inv s) : Inv s.frameReset where
  idle i hi _ := idle_of_frameReset s i hi
  ready := h.ready
  available := h.available
  fresh hav := ⟨(h.fresh hav).1, rfl, rfl, rfl⟩
  length := h.length
  leap := h.leap
  last := h.last

/-- The hand-off sets `timeAvailable` over slots in use, so the invariant holds again only once the frame is begun. -/
theorem inv_handOff_frameReset {s : State} (h : Inv s) : Inv s.handOff.frameReset where
  idle i hi _ := idle_of_frameReset s.handOff i hi
  ready hr := absurd hr (by rw [State.frameReset_frameReady, handOff_frameReady_eq_false]; decide)
  available hav := by
    by_cases hr : s.frameReady = true
    · exact h.ready hr
    · exact h.available (by simpa [hr] using hav)
  fresh _ := ⟨handOff_frameReady_eq_false s, rfl, rfl, rfl⟩
  length := h.length
  leap := h.leap
  last := h.last

theorem bitPointer_le_slotOf (f : Bool) (s : State) : s.bitPointer.toNat ≤ slotOf f s := by
  unfold slotOf
  split <;> omega

/-- A data symbol's write touches its slot only, and the pointer stands on it afterwards. -/
theorem inv_pairWritten {s : State} {a b f : Bool} (h : Inv s) (hl : slotOf f s < 64) :
    Inv (pairWritten s (slotOf f s) a b) where
  idle i hi hlt := by
    rw [pairWritten_pointer hl] at hlt
    have hidle := h.idle i hi (Nat.lt_of_le_of_lt (bitPointer_le_slotOf f s) hlt)
    show bitAt (assignBit _ _ _) i = true ∧ bitAt (assignBit _ _ _) i = false
    rw [bitAt_assignBit _ _ hl hi, bitAt_assignBit _ _ hl hi, if_neg (Nat.ne_of_gt hlt), if_neg (Nat.ne_of_gt hlt)]
    exact hidle
  ready := h.ready
  available hav := by cases hav
  fresh hav := by cases hav
  length := h.length
  leap := h.leap
  last := h.last

theorem inv_failParity {s : State} (h : Inv s) (code : ParityOutcome) (hav : s.timeAvailable = false) :
    Inv (s.failParity code) where
  idle := h.idle
  ready hr := by cases hr
  available hav' := absurd hav' (by simp [hav])
  fresh hav' := absurd hav' (by simp [hav])
  length := h.length
  leap := h.leap
  last := h.last

theorem recordMatch_leap {s : State} (h61 : s.bitPointer.toNat ≤ 61) :
    s.recordMatch.leapSecondIndicator = leapOf s.recordMatch.frameLengthSeconds.toNat := by
  rw [recordMatch_length h61]; rfl

/-- A match clears or sets `frameReady` by the verdict; where it sets it, the record committed is that match's. -/
theorem inv_matched {s : State} (h : Inv s) (hav : s.timeAvailable = false) (h58 : 58 ≤ s.bitPointer.toNat)
    (h61 : s.bitPointer.toNat ≤ 61) : Inv (matched Config.params s) := by
  have hlen := recordMatch_length h61
  have hmin : 58 ≤ s.recordMatch.frameLengthSeconds.toNat := by omega
  have hmax : s.recordMatch.frameLengthSeconds.toNat ≤ 61 := by omega
  have hleap := recordMatch_leap h61
  have hnot : ∀ {q : Prop}, s.timeAvailable = true → q := fun ht => absurd ht (by simp [hav])
  rw [matched_params s h58]
  split
  · obtain ⟨epoch, hframe, hepoch⟩ := assembled_lastFrame_frameOf s.recordMatch.passParity h58 h61
    rw [assembled_frame, hframe]
    exact
      { idle := h.idle
        ready := fun _ => ⟨rfl, hmin, hmax, rfl, rfl⟩
        available := hnot
        fresh := hnot
        length := .inr ⟨hmin, hmax⟩
        leap := hleap
        last := .inr (by
          simp only [State.passParity_leapSecondIndicator, State.passParity_frameLengthSeconds, hleap] at hepoch ⊢
          exact produced_frameOf hmin hmax hepoch) }
  · exact
      { idle := h.idle
        ready := fun hr => by cases hr
        available := hnot
        fresh := hnot
        length := .inr ⟨hmin, hmax⟩
        leap := hleap
        last := h.last }

theorem inv_of_execCase {s t : State} {i : Instr} (h : Inv s) (hc : ExecCase s i t) : Inv t := by
  cases hc with
  | start u => exact inv_of_same_frame h _ _ _ _ _ _ _ _
  | discard hi => exact inv_prologue h
  | boundary => exact inv_handOff_frameReset (inv_acceptPulse (inv_prologue h))
  | overflow hd hp => exact inv_frameReset (inv_acceptPulse (inv_prologue h))
  | write hd hl hm => exact inv_pairWritten h hl
  | hit hd hm =>
    obtain ⟨h58, h61, -⟩ := hm
    have hl := Nat.lt_of_le_of_lt h61 (by decide : 61 < 64)
    exact inv_matched (inv_pairWritten h hl) rfl (by rwa [pairWritten_pointer hl]) (by rwa [pairWritten_pointer hl])

/-- Settles O37, by the transaction performed: each update that a step is made of keeps the invariant. -/
theorem everyStepKeepsTheInvariant : Obligations.EveryStepKeepsTheInvariant := by
  intro s t h hstep
  cases stepCase_of_step hstep with
  | idle hin => exact h
  | operation hp hc => exact inv_of_execCase (inv_of_same_frame h _ _ _ _ _ _ _ _) hc
  | reset hin => exact inv_rearm _ _ _
  | read hin => exact inv_of_same_frame h _ _ _ _ _ _ _ _

/-! ## The port and the consumer's reads -/

/-- The same registers with another port and other readings. -/
def onPort (s : State) (port : List Transaction) (readings : List Outputs) : State :=
  { s with inbox := port, readings := readings }

theorem sameBlock_onPort (s : State) (l l' : List Transaction) (r r' : List Outputs) :
    SameBlock (onPort s l r) (onPort s l' r') := rfl

theorem assembled_onPort (P : Config.Params) (s : State) (l : List Transaction) (r : List Outputs) :
    assembled P (onPort s l r) = onPort (assembled P s) l r := by
  have hepoch : frameEpoch P (frameAt P (onPort s l r) 0#64) = frameEpoch P (frameAt P s 0#64) := rfl
  unfold assembled
  rw [hepoch]
  cases frameEpoch P (frameAt P s 0#64) <;> rfl

theorem matched_onPort (P : Config.Params) (s : State) (l : List Transaction) (r : List Outputs) :
    matched P (onPort s l r) = onPort (matched P s) l r := by
  have hverdict : verdictAt P (onPort s l r).recordMatch = verdictAt P s.recordMatch := rfl
  unfold matched
  rw [hverdict]
  cases verdictAt P s.recordMatch with
  | some code => rfl
  | none => exact assembled_onPort P s.recordMatch.passParity l r

/-- No operation depends on the port or the readings, or changes them. -/
theorem execCase_onPort {s t : State} {i : Instr} (hc : ExecCase s i t) (l : List Transaction) (r : List Outputs) :
    ExecCase (onPort s l r) i (onPort t l r) := by
  cases hc with
  | start u => exact .start u
  | discard hi => exact .discard hi
  | boundary => exact .boundary
  | overflow hd hp => exact .overflow hd hp
  | write hd hl hm => exact .write hd hl hm
  | hit hd hm => rw [← matched_onPort]; exact .hit hd hm

/-- An `EDGE` leaves registers that depend on the registers before it only. -/
theorem step_edge_onPort (s : State) (e : Edge) :
    ∃ t, ∀ l r, step (onPort s (.edge e :: l) r) = .next (onPort t l r) := by
  obtain ⟨i, hi⟩ := decodeOpword_total (opwordOf s e) e.timestampMillis
  obtain ⟨t, -, hc⟩ := exec_answers i s
  refine ⟨t, fun l r => ?_⟩
  exact (Scope.step_of_inbox_edge (s := onPort s (.edge e :: l) r) rfl hi).trans
    (exec_of_execCase (execCase_onPort hc l r))

theorem run_succ {s t : State} (h : step s = .next t) (k : Nat) :
    Sys2Proof.core.run (k + 1) s = Sys2Proof.core.run k t := by
  have hcore : Sys2Proof.core.step s = .next t := h
  simp only [Host.Core.run, hcore]

/-- With the `READ`s and without them, the transactions run to the same registers. -/
theorem run_dropReads (l : List Transaction) (s : State) (r r' : List Outputs) :
    ∃ t q, Sys2Proof.core.run l.length (onPort s l r) = .next (onPort t [] q) ∧
      Sys2Proof.core.run (dropReads l).length (onPort s (dropReads l) r') = .next (onPort t [] r') := by
  induction l generalizing s r with
  | nil => exact ⟨s, r, rfl, rfl⟩
  | cons tx rest ih =>
    cases tx with
    | read =>
      obtain ⟨t, q, hall, hdropped⟩ := ih s (s.outputs :: r)
      have hread : step (onPort s (.read :: rest) r) = .next (onPort s rest (s.outputs :: r)) := rfl
      exact ⟨t, q, (run_succ hread _).trans hall, hdropped⟩
    | edge e =>
      obtain ⟨u, hu⟩ := step_edge_onPort s e
      obtain ⟨t, q, hall, hdropped⟩ := ih u r
      exact ⟨t, q, (run_succ (hu _ _) _).trans hall, (run_succ (hu _ _) _).trans hdropped⟩
    | reset p c =>
      have hu : ∀ l r, step (onPort s (.reset p c :: l) r) = .next (onPort (s.rearm p c) l r) := fun _ _ => rfl
      obtain ⟨t, q, hall, hdropped⟩ := ih (s.rearm p c) r
      exact ⟨t, q, (run_succ (hu _ _) _).trans hall, (run_succ (hu _ _) _).trans hdropped⟩

/-- Settles O43, by induction over the port. -/
theorem readsDoNotDisturbTheDecoder : Obligations.ReadsDoNotDisturbTheDecoder := by
  intro s
  obtain ⟨t, q, hall, hdropped⟩ := run_dropReads s.inbox s s.readings s.readings
  exact ⟨_, _, hall, hdropped, rfl, rfl, sameBlock_onPort t [] [] q s.readings⟩

/-! ## The slots of a list of seconds -/

/-- What sending a list of bit pairs has done to the pointer and the channels. -/
structure Filled (s : State) (sent : List (Bool × Bool)) (t : State) : Prop where
  pointer : t.bitPointer.toNat = s.bitPointer.toNat + sent.length
  pairs : ∀ j ab, sent[j]? = some ab →
    bitAt t.channelA (s.bitPointer.toNat + 1 + j) = ab.1 ∧ bitAt t.channelB (s.bitPointer.toNat + 1 + j) = ab.2
  others : ∀ k, k < 64 → k ≤ s.bitPointer.toNat ∨ s.bitPointer.toNat + sent.length < k →
    bitAt t.channelA k = bitAt s.channelA k ∧ bitAt t.channelB k = bitAt s.channelB k

theorem filled_nil (s : State) : Filled s [] s where
  pointer := rfl
  pairs j ab h := by simp at h
  others k _ _ := ⟨rfl, rfl⟩

/-- One second and then the others: the later ones do not touch the first one's slot. -/
theorem filled_cons {s t u : State} {ab : Bool × Bool} {rest : List (Bool × Bool)} (hfirst : Filled s [ab] t)
    (hrest : Filled t rest u) (hfits : s.bitPointer.toNat + 1 < 64) : Filled s (ab :: rest) u := by
  have hptr : t.bitPointer.toNat = s.bitPointer.toNat + 1 := hfirst.pointer
  constructor
  case pointer =>
    rw [hrest.pointer, hptr, List.length_cons]
    omega
  case pairs =>
    intro j cd hj
    cases j with
    | zero =>
      obtain rfl : ab = cd := by simpa using hj
      obtain ⟨hA, hB⟩ := hrest.others (s.bitPointer.toNat + 1) hfits (.inl hptr.ge)
      rw [Nat.add_zero, hA, hB]
      exact hfirst.pairs 0 ab rfl
    | succ j =>
      have := hrest.pairs j cd (by simpa using hj)
      rwa [hptr, Nat.add_right_comm _ 1 j] at this
  case others =>
    intro k hk hout
    rw [List.length_cons] at hout
    obtain ⟨hA, hB⟩ := hrest.others k hk (by omega)
    obtain ⟨hA', hB'⟩ := hfirst.others k hk (by simp only [List.length_singleton]; omega)
    exact ⟨hA.trans hA', hB.trans hB'⟩

/-- A data symbol that does not overflow puts the pointer on its slot and writes its pair there, marker or not. -/
theorem exec_dataPair_slot {s : State} {i : Instr} {a b f : Bool} (hd : dataPair i = some (a, b, f))
    (hl : slotOf f s < 64) :
    ∃ t, exec i s = .next t ∧ t.bitPointer.toNat = slotOf f s ∧ t.channelA = assignBit s.channelA (slotOf f s) a ∧
      t.channelB = assignBit s.channelB (slotOf f s) b := by
  by_cases hm : completesMarker a f s
  · refine ⟨_, exec_of_execCase (.hit hd hm), ?_, matched_channelA _ _, matched_channelB _ _⟩
    rw [matched_bitPointer, pairWritten_pointer hl]
  · exact ⟨_, exec_of_execCase (.write hd hl hm), pairWritten_pointer hl, rfl, rfl⟩

theorem filled_singleton {s t : State} {a b : Bool} (hfits : s.bitPointer.toNat + 1 < 64)
    (hptr : t.bitPointer.toNat = s.bitPointer.toNat + 1)
    (hA : ∀ k, k < 64 → bitAt t.channelA k = if k = s.bitPointer.toNat + 1 then a else bitAt s.channelA k)
    (hB : ∀ k, k < 64 → bitAt t.channelB k = if k = s.bitPointer.toNat + 1 then b else bitAt s.channelB k) :
    Filled s [(a, b)] t where
  pointer := hptr
  pairs j ab hj := by
    cases j with
    | zero =>
      obtain rfl : (a, b) = ab := by simpa using hj
      rw [Nat.add_zero, hA _ hfits, hB _ hfits, if_pos rfl, if_pos rfl]
      exact ⟨rfl, rfl⟩
    | succ j => simp at hj
  others k hk hout := by
    have hne : k ≠ s.bitPointer.toNat + 1 := by
      rw [List.length_singleton] at hout
      omega
    rw [hA k hk, hB k hk, if_neg hne, if_neg hne]
    exact ⟨rfl, rfl⟩

theorem runOps_cons {s t : State} {i : Instr} (h : exec i s = .next t) (is : List Instr) :
    runOps (i :: is) s = runOps is t := by
  simp only [runOps, h]

theorem runOps_append {s t : State} {xs : List Instr} (h : runOps xs s = .next t) (ys : List Instr) :
    runOps (xs ++ ys) s = runOps ys t := by
  induction xs generalizing s with
  | nil =>
    obtain rfl : s = t := by simpa [runOps] using h
    rfl
  | cons i is ih =>
    obtain ⟨u, hu, -⟩ := exec_answers i s
    rw [runOps_cons hu] at h
    rw [List.cons_append, runOps_cons hu, ih h]

/-- An unflagged data symbol sends a whole second. -/
theorem runOps_unflagged_fills {s : State} {i : Instr} {a b : Bool} (hd : dataPair i = some (a, b, false))
    (hfits : s.bitPointer.toNat + 1 < 64) : ∃ t, runOps [i] s = .next t ∧ Filled s [(a, b)] t := by
  obtain ⟨t, ht, hptr, hA, hB⟩ := exec_dataPair_slot hd hfits
  have hslot : slotOf false s = s.bitPointer.toNat + 1 := rfl
  rw [hslot] at hptr hA hB
  refine ⟨t, runOps_cons ht [], filled_singleton hfits hptr (fun k hk => ?_) fun k hk => ?_⟩
  · rw [hA, bitAt_assignBit _ _ hfits hk]
  · rw [hB, bitAt_assignBit _ _ hfits hk]

/-- The second (0, 1) takes two symbols: SYM1B comes back to the slot that SYM1 wrote. -/
theorem runOps_sym1_sym1b_fills {s : State} (hfits : s.bitPointer.toNat + 1 < 64) :
    ∃ t, runOps [.sym1, .sym1b] s = .next t ∧ Filled s [(false, true)] t := by
  obtain ⟨u, hu, hptr, hA, hB⟩ := exec_dataPair_slot (s := s) (i := .sym1) rfl hfits
  have hslot : slotOf true u = s.bitPointer.toNat + 1 := hptr
  obtain ⟨t, ht, hptr', hA', hB'⟩ := exec_dataPair_slot (s := u) (i := .sym1b) rfl (hslot ▸ hfits)
  have hslot' : slotOf false s = s.bitPointer.toNat + 1 := rfl
  rw [hslot'] at hA hB
  rw [hslot] at hptr' hA' hB'
  refine ⟨t, (runOps_cons hu _).trans (runOps_cons ht []), filled_singleton hfits hptr' (fun k hk => ?_) fun k hk => ?_⟩
  · rw [hA', hA, bitAt_assignBit _ _ hfits hk, bitAt_assignBit _ _ hfits hk]
    split <;> rfl
  · rw [hB', hB, bitAt_assignBit _ _ hfits hk, bitAt_assignBit _ _ hfits hk]
    split <;> rfl

theorem runOps_slotOps_fills (s : State) (ab : Bool × Bool) (hfits : s.bitPointer.toNat + 1 < 64) :
    ∃ t, runOps (slotOps ab) s = .next t ∧ Filled s [ab] t := by
  match ab with
  | (false, false) => exact runOps_unflagged_fills (i := .sym1) rfl hfits
  | (true, false) => exact runOps_unflagged_fills (i := .sym2 false) rfl hfits
  | (true, true) => exact runOps_unflagged_fills (i := .sym3 false) rfl hfits
  | (false, true) => exact runOps_sym1_sym1b_fills hfits

theorem runOps_seconds_fill (s : State) (sent : List (Bool × Bool)) (hfits : s.bitPointer.toNat + sent.length ≤ 63) :
    ∃ t, runOps (sent.flatMap slotOps) s = .next t ∧ Filled s sent t := by
  induction sent generalizing s with
  | nil => exact ⟨s, rfl, filled_nil s⟩
  | cons ab rest ih =>
    rw [List.length_cons] at hfits
    have hslot : s.bitPointer.toNat + 1 < 64 := by omega
    obtain ⟨t, ht, hfirst⟩ := runOps_slotOps_fills s ab hslot
    have hptr : t.bitPointer.toNat = s.bitPointer.toNat + 1 := hfirst.pointer
    obtain ⟨u, hu, hrest⟩ := ih t (by omega)
    exact ⟨u, by rw [List.flatMap_cons, runOps_append ht, hu], filled_cons hfirst hrest hslot⟩

/-- Settles O45, by induction over the seconds sent. -/
theorem secondsSentFillTheSlotsInOrder : Obligations.SecondsSentFillTheSlotsInOrder := by
  intro s sent hfits
  obtain ⟨t, ht, hfilled⟩ := runOps_seconds_fill s sent hfits
  exact ⟨t, ht, hfilled.pointer, hfilled.pairs, hfilled.others⟩

end Sys2Proof.Proofs.Registers
end

section
/-! The statements about the channel memory (20_memory.md): single bits read and written (O28, O29), and chunks (O27). The
laws of Laws/Channel.lean say when an access answers; here stand also when it does not, and the bits of a slice. -/

namespace Sys2Proof.Proofs.Memory

open Sys2Proof.Machine

/-! ## Accesses out of range -/

theorem bitRead_eq_none {ch : Channel} {i : Nat} : bitRead ch i = none ↔ 64 ≤ i := by
  simp [bitRead, Config.channelBits]

theorem bitWrite_eq_none {ch : Channel} {i : Nat} {v : Bool} : bitWrite ch i v = none ↔ 64 ≤ i := by
  simp [bitWrite, Config.channelBits]

theorem chunkRead_eq_none {ch : Channel} {s w : Nat} :
    chunkRead ch s w = none ↔ ¬ (1 ≤ w ∧ w ≤ 8 ∧ s + w ≤ 64) := by
  simp [chunkRead, Config.channelBits]

/-! ## Single bits -/

/-- Byte `i / 8` of the 64-bit view, byte 0 the most significant, holds index `i` at its bit `7 - i % 8`: that is bit
`63 - i` of the view. -/
theorem channelByte_getLsbD (ch : Channel) {i : Nat} (hi : i < 64) :
    (ch.extractLsb' (8 * (7 - i / 8)) 8).getLsbD (7 - i % 8) = ch.getLsbD (63 - i) := by
  have hbit : 7 - i % 8 < 8 := by omega
  have hplace : 8 * (7 - i / 8) + (7 - i % 8) = 63 - i := by omega
  rw [BitVec.getLsbD_extractLsb', hplace, decide_eq_true hbit, Bool.true_and]

/-- Settles O28, by the place of an index in its byte. -/
theorem channelIndexIsMostSignificantFirst : Obligations.ChannelIndexIsMostSignificantFirst := by
  intro ch i hi
  have hread : bitRead ch i = some (ch.getLsbD (63 - i)) := bitRead_eq_some.2 ⟨hi, bitAt_eq_getLsbD ch hi⟩
  exact ⟨hread, by rw [channelByte_getLsbD ch hi, hread]⟩

theorem bitRead_assignBit_same (ch : Channel) {i : Nat} (v : Bool) (hi : i < 64) :
    bitRead (assignBit ch i v) i = some v :=
  bitRead_eq_some.2 ⟨hi, by rw [bitAt_assignBit ch v hi hi, if_pos rfl]⟩

theorem bitRead_assignBit_of_ne (ch : Channel) {i k : Nat} (v : Bool) (hi : i < 64) (hne : k ≠ i) :
    bitRead (assignBit ch i v) k = bitRead ch k := by
  by_cases hk : k < 64
  · have hbit : bitAt (assignBit ch i v) k = bitAt ch k := by rw [bitAt_assignBit ch v hi hk, if_neg hne]
    rw [bitRead_eq_some.2 ⟨hk, hbit⟩, bitRead_eq_some.2 ⟨hk, rfl⟩]
  · rw [bitRead_eq_none.2 (Nat.le_of_not_lt hk), bitRead_eq_none.2 (Nat.le_of_not_lt hk)]

/-- Settles O29, by the reads after an assignment and the accesses out of range. -/
theorem bitWriteAssignsOneBit : Obligations.BitWriteAssignsOneBit := by
  intro ch i v
  constructor
  · intro hi
    exact ⟨assignBit ch i v, bitWrite_eq_some.2 ⟨hi, rfl⟩, bitRead_assignBit_same ch v hi,
      fun k hne => bitRead_assignBit_of_ne ch v hi hne⟩
  · intro hi
    exact ⟨bitWrite_eq_none.2 hi, bitRead_eq_none.2 hi⟩

/-! ## Chunks -/

/-- ChunkRead under its side conditions, in terms of the references of Safety.lean. -/
theorem chunkRead_eq_slice (ch : Channel) {s w : Nat} (h : 1 ≤ w ∧ w ≤ 8 ∧ s + w ≤ 64) :
    chunkRead ch s w = some { value := sliceByte ch s w, count := onesIn ch s w } := by
  have ⟨_, _, hw⟩ := h
  rw [chunkRead_eq_some.2 ⟨h, rfl⟩, byte_bitsFrom ch s w hw, onesOf_bitsFrom]

/-- The slice is right-aligned: its least significant bit is the last index read, and above its `w` bits it is 0. -/
theorem sliceByte_getLsbD (ch : Channel) {s w j : Nat} (hw : s + w ≤ 64) (hj : j < 8) :
    (sliceByte ch s w).getLsbD j = (decide (j < w) && bitAt ch (s + (w - 1 - j))) := by
  rw [sliceByte, BitVec.getLsbD_setWidth, BitVec.getLsbD_extractLsb', decide_eq_true hj, Bool.true_and]
  by_cases hjw : j < w
  · have hplace : 64 - s - w + j = 63 - (s + (w - 1 - j)) := by omega
    rw [hplace, bitAt_eq_getLsbD ch (by omega)]
  · rw [decide_eq_false hjw, Bool.false_and, Bool.false_and]

/-- The indices below `w` met from the top down are those met from 0 up. -/
theorem countP_range_reversed (p : Nat → Bool) (w : Nat) :
    (List.range w).countP (fun j => p (w - 1 - j)) = (List.range w).countP p := by
  have hrev : (List.range w).reverse = (List.range w).map (w - 1 - ·) := by
    rw [List.range_eq_range', List.reverse_range', Nat.zero_add, List.range_eq_range']
  calc (List.range w).countP (fun j => p (w - 1 - j))
      = ((List.range w).map (w - 1 - ·)).countP p := List.countP_map.symm
    _ = (List.range w).countP p := by rw [← hrev, List.countP_reverse]

/-- Counting below `n` what holds below `w` only is counting below `w`. -/
theorem countP_range_of_le (p : Nat → Bool) {w n : Nat} (h : w ≤ n) :
    (List.range n).countP (fun j => decide (j < w) && p j) = (List.range w).countP p := by
  obtain ⟨d, rfl⟩ := Nat.exists_eq_add_of_le h
  have hbelow : (List.range w).countP (fun j => decide (j < w) && p j) = (List.range w).countP p :=
    List.countP_congr fun j hj => by simp [List.mem_range.1 hj]
  have habove : ((List.range d).map (w + ·)).countP (fun j => decide (j < w) && p j) = 0 := by
    simp [List.countP_eq_zero]
  rw [List.range_add, List.countP_append, hbelow, habove, Nat.add_zero]

/-- The set bits of the channel run are those of the slice. -/
theorem onesIn_eq_ones_sliceByte (ch : Channel) {s w : Nat} (hw8 : w ≤ 8) (hw : s + w ≤ 64) :
    onesIn ch s w = ((List.range 8).filter fun j => (sliceByte ch s w).getLsbD j).length := by
  calc onesIn ch s w
      = (List.range w).countP (fun j => bitAt ch (s + j)) := List.countP_eq_length_filter.symm
    _ = (List.range w).countP (fun j => bitAt ch (s + (w - 1 - j))) :=
        (countP_range_reversed (fun j => bitAt ch (s + j)) w).symm
    _ = (List.range 8).countP (fun j => decide (j < w) && bitAt ch (s + (w - 1 - j))) :=
        (countP_range_of_le _ hw8).symm
    _ = (List.range 8).countP (fun j => (sliceByte ch s w).getLsbD j) :=
        List.countP_congr fun j hj => by rw [sliceByte_getLsbD ch hw (List.mem_range.1 hj)]
    _ = ((List.range 8).filter fun j => (sliceByte ch s w).getLsbD j).length := List.countP_eq_length_filter

/-- Settles O27, by the bits of the slice and by counting them from either end. -/
theorem chunkReadIsARightAlignedSlice : Obligations.ChunkReadIsARightAlignedSlice := by
  intro ch s w
  constructor
  · intro h
    have ⟨_, hw8, hw⟩ := h
    exact ⟨_, chunkRead_eq_slice ch h, rfl, fun j hj => sliceByte_getLsbD ch hw hj, rfl,
      onesIn_eq_ones_sliceByte ch hw8 hw⟩
  · exact chunkRead_eq_none.2

end Sys2Proof.Proofs.Memory
end

section
/-! The statements about the encoding (30_encoding.md). First what the decoder answers for an operation word (O6, O7),
for an `EDGE` word (O5) and for a length code (O8, O9); then the event that brings about an operation word, with the
round trip (O12) and the host's fetch (O13); then a data symbol's pair at its slot (O18), the shift of all times (O44)
and the transactions of one second (O46). -/

namespace Sys2Proof.Proofs.Encoding

open Sys2Proof.Machine

/-! ## Operation words -/

/-- Settles O6, by the 32 operation words. -/
theorem opcodePatternsPartitionTheWords : Obligations.OpcodePatternsPartitionTheWords := by
  constructor
  · rfl
  · decide

/-- Settles O7, by the decoder on each of the words. -/
theorem opcodeTableWordsDecode : Obligations.OpcodeTableWordsDecode := by
  unfold Obligations.OpcodeTableWordsDecode
  decide

/-- A word with `s` = 1 matches the first row, whatever its other fields are. -/
theorem decodeOpword_of_start {w : Opword} (hs : opwordS w = true) (t : Millis) :
    decodeOpword w t = .instr (.pstart t) := by
  have hrow : ∀ w : Opword, opwordS w = true → (w &&& 0x10#5 == 0x10#5) = true := by decide
  simp only [decodeOpword, opcodeMap, List.find?_cons, OpcodeRow.fits, hrow w hs]

/-- A word with `s` = 0 is the word of a pulse end with its own length code and flag. -/
theorem pulseEndOpword_fields {w : Opword} (hs : opwordS w = false) :
    pulseEndOpword ((opwordCode w).toNat : Int) (opwordB w) = w := by
  revert w
  decide

/-- The operation of a pulse end has no operand, so the timestamp does not matter to it. -/
theorem decodeOpword_of_end {w : Opword} (hs : opwordS w = false) (t t' : Millis) :
    decodeOpword w t = decodeOpword w t' := by
  rw [← pulseEndOpword_fields hs, decode_pulseEnd, decode_pulseEnd]

theorem decodeOpword_encodeOpword (i : Instr) : decodeOpword (encodeOpword i) (encodeOperand i) = .instr i := by
  cases i with
  | sym2 b => cases b <;> rfl
  | sym3 b => cases b <;> rfl
  | pstart t => exact decodeOpword_of_start (w := 0x10#5) (by decide) t
  | _ => rfl

/-! ## `EDGE` words -/

theorem toWord_level (e : Edge) : e.toWord.getLsbD 32 = e.level := by
  rw [Edge.toWord, BitVec.getLsbD_append]
  simp

theorem toWord_timestampMillis (e : Edge) : e.toWord.extractLsb' 0 32 = e.timestampMillis := by
  apply BitVec.eq_of_getLsbD_eq
  intro j hj
  rw [BitVec.getLsbD_extractLsb', Edge.toWord, BitVec.getLsbD_append]
  simp [hj]

theorem toWord_ofWord (w : BitVec 33) : (Edge.ofWord w).toWord = w := by
  apply BitVec.eq_of_getLsbD_eq
  intro j hj
  rw [Edge.toWord, BitVec.getLsbD_append]
  by_cases hlow : j < 32
  · simp [Edge.ofWord, hlow]
  · obtain rfl : j = 32 := by omega
    simp [Edge.ofWord]

/-- Settles O5, by the two fields of the word and the opcode map's totality. -/
theorem edgeWordCarriesLevelAndTimestamp : Obligations.EdgeWordCarriesLevelAndTimestamp := by
  refine ⟨fun e => ⟨toWord_level e, toWord_timestampMillis e, ?_⟩, toWord_ofWord, fun s w => ?_⟩
  · rw [Edge.ofWord, toWord_level, toWord_timestampMillis]
  · exact decodeOpword_total _ _

/-! ## Length codes -/

theorem fetchInstr_start {s : State} {e : Edge} (h : e.level = s.carrierOffLevel) :
    fetchInstr s e = .instr (.pstart e.timestampMillis) := by
  simp only [fetchInstr, opwordOf, isStart, h, beq_self_eq_true, if_true]
  rfl

/-- The length code is the one quotient that floors the sum of duration and padding to hundreds. -/
theorem lengthCodeOf_eq_iff {d : Millis} {p : BitVec 16} {q : Int} :
    lengthCodeOf d p = q ↔ q * 100 ≤ (d.toNat : Int) + p.toInt ∧ (d.toNat : Int) + p.toInt < q * 100 + 100 := by
  unfold lengthCodeOf Config.codeUnitMs
  omega

theorem lengthCode_eq_fdiv (s : State) (t : Millis) :
    lengthCode s t = Int.fdiv (((t - s.pendingPulseStartMillis).toNat : Int) + s.paddingMs.toInt) 100 :=
  (Int.fdiv_eq_ediv_of_nonneg _ (by decide)).symm

/-- `decode_pulseEnd` at the port: the operation of a pulse end by its length code. -/
theorem fetchInstr_of_lengthCode {s : State} {e : Edge} {c : Int} (he : e.level ≠ s.carrierOffLevel)
    (hc : lengthCode s e.timestampMillis = c) : fetchInstr s e = .instr
      (if c ≤ 0 then .discard0 else if c = 1 then (if s.bOnlyFlag then .sym1b else .sym1)
       else if c = 2 then .sym2 s.bOnlyFlag else if c = 3 then .sym3 s.bOnlyFlag else if c = 4 then .sym4 else if c = 5 then .sym5 else .long) := by
  rw [fetchInstr_end he, hc, decode_pulseEnd]

/-- With `paddingMs` = 0 the length code counts the whole hundreds of the duration. -/
theorem lengthCode_of_padding_zero {s : State} (hpad : s.paddingMs = 0) (t : Millis) :
    lengthCode s t = ((measuredMs s t).toNat / 100 : Nat) := by
  rw [lengthCode, lengthCodeOf_eq_iff, hpad, show (0 : BitVec 16).toInt = 0 from rfl]
  omega

/-- Settles O8, by the operation of each length code; a band of durations is one length code. -/
theorem edgeDecodesByLengthCode : Obligations.EdgeDecodesByLengthCode := by
  refine ⟨fun s e => fetchInstr_start, fun s e code he hcode => ?_, fun s e ms he hpad hms => ?_⟩
  · have hf := fetchInstr_of_lengthCode he ((lengthCode_eq_fdiv s e.timestampMillis).trans hcode.symm)
    refine ⟨fun h => ?_, fun h hb => ?_, fun h hb => ?_, fun h => ?_, fun h => ?_, fun h => ?_, fun h => ?_, fun h => ?_⟩
    · rw [hf, if_pos h]
    · rw [hf, h, hb]; rfl
    · rw [hf, h, hb]; rfl
    · rw [hf, h]; rfl
    · rw [hf, h]; rfl
    · rw [hf, h]; rfl
    · rw [hf, h]; rfl
    · rw [hf, if_neg, if_neg, if_neg, if_neg, if_neg, if_neg] <;> omega
  · have hf := fetchInstr_of_lengthCode he (lengthCode_of_padding_zero hpad e.timestampMillis)
    rw [show (measuredMs s e.timestampMillis).toNat = ms from hms.symm] at hf
    refine ⟨fun h => ?_, fun h h' => ?_, fun h h' => ?_, fun h h' => ?_, fun h h' => ?_, fun h h' => ?_, fun h => ?_⟩
    · rw [hf, if_pos (by omega)]
    · rw [hf, show ms / 100 = 1 by omega]; rfl
    · rw [hf, show ms / 100 = 2 by omega]; rfl
    · rw [hf, show ms / 100 = 3 by omega]; rfl
    · rw [hf, show ms / 100 = 4 by omega]; rfl
    · rw [hf, show ms / 100 = 5 by omega]; rfl
    · rw [hf, if_neg, if_neg, if_neg, if_neg, if_neg, if_neg] <;> omega

/-- Settles O9. The least code has no duration and the least padding, the greatest the longest duration and the greatest
padding. -/
theorem lengthCodeIsAFlooredUnboundedQuotient : Obligations.LengthCodeIsAFlooredUnboundedQuotient := by
  refine ⟨fun s t => ?_, ⟨{ State.reset with paddingMs := BitVec.intMin 16 }, 0, by decide⟩,
    ⟨{ State.reset with paddingMs := BitVec.intMax 16 }, BitVec.allOnes 32, by decide⟩⟩
  obtain ⟨hlo, hhi⟩ := lengthCodeOf_eq_iff.1 (rfl : lengthCode s t = lengthCode s t)
  have hdur : (measuredMs s t).toNat < 2 ^ 32 := (measuredMs s t).isLt
  have hpad : -2 ^ 15 ≤ s.paddingMs.toInt := BitVec.le_toInt s.paddingMs
  have hpad' : s.paddingMs.toInt < 2 ^ 15 := BitVec.toInt_lt
  refine ⟨?_, hlo, hhi, by omega, by omega⟩
  have hpend := s.pendingPulseStartMillis.isLt
  rw [measuredMs, BitVec.toNat_sub]
  congr 1
  omega

/-! ## The event of an operation word -/

/-- Under the padding chosen a pulse of no length does not exceed the code, but for 7, which saturates. -/
theorem paddingFor_reaches (s : State) (c : Nat) : c = 7 ∨ (paddingFor s c).toInt < 100 * (c : Int) + 100 := by
  unfold paddingFor
  split
  · assumption
  · right
    rw [show (0#16).toInt = 0 from rfl]
    omega

/-- The shortest duration gives the length code, up to the saturation of the operation word. -/
theorem saturateCode_durationFor {p : BitVec 16} {c : Nat} (hc : c ≤ 7) (hp : c = 7 ∨ p.toInt < 100 * (c : Int) + 100) :
    saturateCode (lengthCodeOf (BitVec.ofNat 32 (durationFor p c)) p) = c := by
  have hpad : -2 ^ 15 ≤ p.toInt := BitVec.le_toInt p
  have hdur : (BitVec.ofNat 32 (durationFor p c)).toNat = durationFor p c := by
    rw [BitVec.toNat_ofNat]
    unfold durationFor
    omega
  obtain ⟨hlo, hhi⟩ := lengthCodeOf_eq_iff.1 (rfl : lengthCodeOf (BitVec.ofNat 32 (durationFor p c)) p = _)
  rw [hdur] at hlo hhi
  unfold saturateCode
  unfold durationFor at hlo hhi ⊢
  omega

theorem pulseEndOpword_eq_of_saturateCode {c : Int} {n : Nat} (b : Bool) (hn : n ≤ 7) (h : saturateCode c = n) :
    pulseEndOpword c b = pulseEndOpword (n : Int) b := by
  have hsat : saturateCode (n : Int) = n := by
    unfold saturateCode
    omega
  rw [pulseEndOpword, pulseEndOpword, h, hsat]

theorem issueOpword_of_start {w : Opword} (hs : opwordS w = true) (s : State) (t : Millis) :
    s.issueOpword w t = s.withInbox (.edge { level := s.carrierOffLevel, timestampMillis := t } :: s.inbox) := by
  simp only [State.issueOpword, hs, if_true]
  rfl

/-- The edge issued for a word of a pulse end produces that very word. -/
theorem opwordOf_issueOpword {w : Opword} (hs : opwordS w = false) (s : State) (t : Millis) :
    ∃ e, (s.issueOpword w t).inbox = .edge e :: s.inbox ∧ opwordOf (s.issueOpword w t) e = w := by
  have hc : (opwordCode w).toNat ≤ 7 := Nat.le_of_lt_succ (opwordCode w).isLt
  simp only [State.issueOpword, hs, Bool.false_eq_true, if_false]
  refine ⟨_, rfl, ?_⟩
  simp only [opwordOf, isStart, lengthCode, measuredMs, add_sub_cancel_left, Bool.not_beq_self,
    Bool.false_eq_true, if_false]
  rw [pulseEndOpword_eq_of_saturateCode _ hc (saturateCode_durationFor hc (paddingFor_reaches s _)),
    pulseEndOpword_fields hs]

/-- The edge issued for a word decodes, in the state it is issued in, as the word does with its operand. -/
theorem fetchInstr_issueOpword (s : State) (w : Opword) (t : Millis) :
    ∃ e, (s.issueOpword w t).inbox = .edge e :: s.inbox ∧ fetchInstr (s.issueOpword w t) e = decodeOpword w t := by
  cases hs : opwordS w with
  | true =>
    rw [issueOpword_of_start hs, decodeOpword_of_start hs]
    exact ⟨_, rfl, fetchInstr_start rfl⟩
  | false =>
    obtain ⟨e, hin, hw⟩ := opwordOf_issueOpword hs s t
    exact ⟨e, hin, by rw [fetchInstr, hw, decodeOpword_of_end hs]⟩

theorem issueOpword_frame (s : State) (w : Opword) (t : Millis) :
    s.issueOpword w t = { s with
      inbox := (s.issueOpword w t).inbox
      paddingMs := (s.issueOpword w t).paddingMs
      bOnlyFlag := (s.issueOpword w t).bOnlyFlag } := by
  unfold State.issueOpword
  split <;> rfl

theorem decodeBytes_encode (i : Instr) : Laws.RoundTrip.Statement i := by
  cases i with
  | pstart t => exact Laws.RoundTrip.pstart t
  | discard0 => exact Laws.RoundTrip.discard0
  | sym1 => exact Laws.RoundTrip.sym1
  | sym1b => exact Laws.RoundTrip.sym1b
  | sym2 b => exact Laws.RoundTrip.sym2 b
  | sym3 b => exact Laws.RoundTrip.sym3 b
  | sym4 => exact Laws.RoundTrip.sym4
  | sym5 => exact Laws.RoundTrip.sym5
  | long => exact Laws.RoundTrip.long

/-- Settles O12, by the round trip of each operation and the edge issued for an operation word. -/
theorem decodingTheEncodedOperationGivesItBack : Obligations.DecodingTheEncodedOperationGivesItBack := by
  refine ⟨decodeBytes_encode, fun s i _ => ?_, fun s w t hs => ?_⟩
  · obtain ⟨e, hin, hf⟩ := fetchInstr_issueOpword s (encodeOpword i) (encodeOperand i)
    exact ⟨e, _, rfl, hin, hf.trans (decodeOpword_encodeOpword i), issueOpword_frame s _ _⟩
  · obtain ⟨e, hin, hw⟩ := opwordOf_issueOpword hs s t
    exact ⟨e, _, rfl, hin, hw⟩

/-! ## The host's fetch -/

/-- A table word of eight bits has the operation word in its low five bits, none above them, and the operand 0. -/
theorem decodeTableWord_eight (w : Nat) : decodeTableWord 8 w =
    if w % 256 < 32 then (decodeOpword (BitVec.ofNat 5 (w % 256)) 0#32).toOption else none := by
  have hbyte0 : (byteOf (w % 256) 0).toNat = w % 256 := by simp [byteOf]
  have hopword : (byteOf (w % 256) 0).extractLsb' 0 5 = BitVec.ofNat 5 (w % 256) := by
    apply BitVec.eq_of_toNat_eq
    simp [byteOf]
  have hbyte : ∀ k, 1 ≤ k → byteOf (w % 256) k = 0#8 := by
    intro k hk
    have hpow : 2 ^ 8 ≤ 2 ^ (8 * k) := Nat.pow_le_pow_right (by decide) (by omega)
    rw [byteOf, Nat.div_eq_of_lt (by omega)]
  simp only [decodeTableWord, decodeBytes, rawOpwordWf, show (2 : Nat) ^ 8 = 256 from rfl, hbyte0, hopword,
    hbyte 1 (by decide), hbyte 2 (by decide), hbyte 3 (by decide), hbyte 4 (by decide)]
  by_cases h : w % 256 < 32
  · simp only [h, decide_true, if_true]
    rfl
  · simp only [h, decide_false, Bool.false_eq_true, if_false]
    rfl

theorem withFetchWord_eight (s : State) (w : Nat) : s.withFetchWord 8 w =
    if w % 256 < 32 then s.issueOpword (BitVec.ofNat 5 (w % 256)) 0#32 else s := by
  have hop : w % 256 / 256 = 0 := by omega
  simp only [State.withFetchWord, rawOpwordWf, show (2 : Nat) ^ 8 = 256 from rfl, Nat.mod_mod, hop, decide_eq_true_eq]

/-- Settles O13, by the edge issued for the operation word of the table word. -/
theorem fetchedTableWordIsRunNext : Obligations.FetchedTableWordIsRunNext := by
  intro s w i hdec
  rw [decodeTableWord_eight] at hdec
  split at hdec
  case isFalse => cases hdec
  case isTrue hw =>
    rw [withFetchWord_eight, if_pos hw]
    obtain ⟨e, hin, hf⟩ := fetchInstr_issueOpword s (BitVec.ofNat 5 (w % 256)) 0#32
    obtain ⟨j, hj⟩ := decodeOpword_total (BitVec.ofNat 5 (w % 256)) 0#32
    obtain rfl : j = i := by simpa [hj, Decoded.toOption] using hdec
    exact Scope.step_of_inbox_edge hin (hf.trans hj)

/-! ## A data symbol's pair at its slot -/

/-- The pointer of `t` is on slot `p`, which holds the pair; every other slot is as it is in `s`. -/
structure PairAt (s : State) (p : Nat) (a b : Bool) (t : State) : Prop where
  pointer : t.bitPointer.toNat = p
  channelA : ∀ k, k < 64 → bitAt t.channelA k = if k = p then a else bitAt s.channelA k
  channelB : ∀ k, k < 64 → bitAt t.channelB k = if k = p then b else bitAt s.channelB k

theorem pairAt_pairWritten {s : State} {p : Nat} (hp : p < 64) (a b : Bool) : PairAt s p a b (pairWritten s p a b) where
  pointer := pairWritten_pointer hp
  channelA _ hk := bitAt_assignBit s.channelA a hp hk
  channelB _ hk := bitAt_assignBit s.channelB b hp hk

/-- A second write of the same slot replaces the first. -/
theorem pairAt_rewrite {s t u : State} {p : Nat} {a b a' b' : Bool} (ht : PairAt s p a b t) (hu : PairAt t p a' b' u) :
    PairAt s p a' b' u where
  pointer := hu.pointer
  channelA k hk := by
    rw [hu.channelA k hk, ht.channelA k hk]
    split <;> rfl
  channelB k hk := by
    rw [hu.channelB k hk, ht.channelB k hk]
    split <;> rfl

/-- What every data symbol that does not overflow leaves, marker or not: the pulse accepted, and the registers of the
configuration, of the pulse and of the port as they were. -/
structure Accepted (s t : State) : Prop where
  last : t.lastPulseStartMillis = s.pendingPulseStartMillis
  available : t.timeAvailable = false
  padding : t.paddingMs = s.paddingMs
  carrierOff : t.carrierOffLevel = s.carrierOffLevel
  pending : t.pendingPulseStartMillis = s.pendingPulseStartMillis
  flag : t.bOnlyFlag = s.bOnlyFlag
  inbox : t.inbox = s.inbox
  readings : t.readings = s.readings

theorem accepted_pairWritten (s : State) (p : Nat) (a b : Bool) : Accepted s (pairWritten s p a b) :=
  ⟨rfl, rfl, rfl, rfl, rfl, rfl, rfl, rfl⟩

theorem pairAt_matched {P : Config.Params} {s t : State} {p : Nat} {a b : Bool} (h : PairAt s p a b t) :
    PairAt s p a b (matched P t) := by
  rw [matched_frame]
  exact ⟨h.pointer, h.channelA, h.channelB⟩

theorem accepted_matched {P : Config.Params} {s t : State} (h : Accepted s t) : Accepted s (matched P t) := by
  rw [matched_frame]
  exact ⟨h.last, h.available, h.padding, h.carrierOff, h.pending, h.flag, h.inbox, h.readings⟩

theorem slotOf_lt {f : Bool} {s : State} (h : f = true ∨ s.bitPointer.toNat < 63) : slotOf f s < 64 := by
  cases f with
  | true => exact s.bitPointer.isLt
  | false => exact Nat.succ_lt_succ (h.resolve_left (by decide))

theorem exec_dataPair_pairAt {s : State} {i : Instr} {a b f : Bool} (hd : dataPair i = some (a, b, f))
    (hl : slotOf f s < 64) : ∃ t, exec i s = .next t ∧ PairAt s (slotOf f s) a b t ∧ Accepted s t := by
  have hpair := pairAt_pairWritten (s := s) hl a b
  have hacc := accepted_pairWritten s (slotOf f s) a b
  cases exec_dataPair (s := s) hd with
  | overflow hf hp _ => simp [slotOf, hf, hp] at hl
  | write _ _ h => exact ⟨_, h, hpair, hacc⟩
  | hit _ _ h => exact ⟨_, h, pairAt_matched hpair, accepted_matched hacc⟩

/-- Settles O18, by the write of the slot, which a match does not undo. -/
theorem dataSymbolWritesItsPairAtItsSlot : Obligations.DataSymbolWritesItsPairAtItsSlot := by
  intro s i a b f hd hfits
  obtain ⟨t, ht, hpair, hacc⟩ := exec_dataPair_pairAt hd (slotOf_lt hfits)
  refine ⟨t, ht, hpair.pointer, ?_, ?_, hacc.last, hacc.available, hacc.padding, hacc.carrierOff, hacc.pending,
    hacc.flag, hacc.inbox, hacc.readings⟩
  · rw [hpair.pointer]
    exact hpair.channelA
  · rw [hpair.pointer]
    exact hpair.channelB

/-! ## All times moved by one amount -/

/-- The operation of an `EDGE` that comes `k` later: a pulse start carries its timestamp. -/
def shiftInstr (k : Millis) : Instr → Instr
  | .pstart t => .pstart (t + k)
  | i => i

theorem dataPair_shiftInstr (k : Millis) (i : Instr) : dataPair (shiftInstr k i) = dataPair i := by
  cases i <;> rfl

theorem decodeOpword_shift {w : Opword} {t : Millis} {i : Instr} (k : Millis) (h : decodeOpword w t = .instr i) :
    decodeOpword w (t + k) = .instr (shiftInstr k i) := by
  cases hs : opwordS w with
  | true =>
    rw [decodeOpword_of_start hs] at h ⊢
    cases h
    rfl
  | false =>
    have hkeep : shiftInstr k i = i := by
      rw [← pulseEndOpword_fields hs, decode_pulseEnd] at h
      cases h
      split_ifs <;> rfl
    rw [decodeOpword_of_end hs (t + k) t, h, hkeep]

/-- The operation word depends on the level and on a duration. -/
theorem opwordOf_shiftTime (k : Millis) (s : State) (e : Edge) :
    opwordOf (shiftTime k s) { e with timestampMillis := e.timestampMillis + k } = opwordOf s e := by
  have hcode : lengthCode (shiftTime k s) (e.timestampMillis + k) = lengthCode s e.timestampMillis :=
    congrArg (lengthCodeOf · s.paddingMs) (add_sub_add_right_eq_sub e.timestampMillis s.pendingPulseStartMillis k)
  simp only [opwordOf, hcode]
  rfl

theorem latchStart_shiftTime (k u : Millis) (s : State) :
    (shiftTime k s).latchStart (u + k) = shiftTime k (s.latchStart u) := by
  simp only [State.latchStart, shiftTime, bOnlyOf, add_sub_add_right_eq_sub]

theorem assembled_shiftTime (P : Config.Params) (k : Millis) (s : State) :
    assembled P (shiftTime k s) = shiftTime k (assembled P s) := by
  have hepoch : frameEpoch P (frameAt P (shiftTime k s) 0#64) = frameEpoch P (frameAt P s 0#64) := rfl
  unfold assembled
  rw [hepoch]
  cases frameEpoch P (frameAt P s 0#64) <;> rfl

theorem matched_shiftTime (P : Config.Params) (k : Millis) (s : State) :
    matched P (shiftTime k s) = shiftTime k (matched P s) := by
  have hverdict : verdictAt P (shiftTime k s).recordMatch = verdictAt P s.recordMatch := rfl
  unfold matched
  rw [hverdict]
  cases verdictAt P s.recordMatch with
  | some code => rfl
  | none => exact assembled_shiftTime P k s.recordMatch.passParity

/-- Every operation commutes with the shift: none compares a time with anything but another time. -/
theorem execCase_shiftTime {s t : State} {i : Instr} (k : Millis) (hc : Registers.ExecCase s i t) :
    Registers.ExecCase (shiftTime k s) (shiftInstr k i) (shiftTime k t) := by
  cases hc with
  | start u => exact latchStart_shiftTime k u s ▸ .start (u + k)
  | discard hi => rcases hi with rfl | rfl | rfl <;> exact .discard (by simp [shiftInstr])
  | boundary => exact .boundary
  | overflow hd hp => exact .overflow ((dataPair_shiftInstr k i).trans hd) hp
  | write hd hl hm => exact .write ((dataPair_shiftInstr k i).trans hd) hl hm
  | hit hd hm => exact matched_shiftTime _ k _ ▸ .hit ((dataPair_shiftInstr k i).trans hd) hm

/-- Settles O44, by the shift of the decoding and of the operation. -/
theorem onlyDifferencesOfTimesMatter : Obligations.OnlyDifferencesOfTimesMatter := by
  intro k s e rest hin
  obtain ⟨i, hi⟩ := decodeOpword_total (opwordOf s e) e.timestampMillis
  obtain ⟨t, ht, hc⟩ := Registers.exec_answers i (s.withInbox rest)
  refine ⟨t, (Scope.step_of_inbox_edge hin hi).trans ht, ?_⟩
  have hin' : (shiftTime k s).inbox =
      .edge { e with timestampMillis := e.timestampMillis + k } :: rest.map (shiftTransaction k) := by
    simp only [shiftTime, hin, List.map_cons, shiftTransaction]
  have hf : fetchInstr (shiftTime k s) { e with timestampMillis := e.timestampMillis + k } =
      .instr (shiftInstr k i) := by
    rw [fetchInstr, opwordOf_shiftTime]
    exact decodeOpword_shift k hi
  rw [Scope.step_of_inbox_edge hin' hf]
  exact Registers.exec_of_execCase (execCase_shiftTime k hc)

/-! ## The transactions of one second -/

/-- The state a pulse start leaves, with the port as it is after it. -/
abbrev started (s : State) (t : Millis) (rest : List Transaction) : State := (s.latchStart t).withInbox rest

/-- One whole pulse: its start, and the operation of its duration. -/
theorem run_pulse {s v : State} {t d : Millis} {rest : List Transaction} {i : Instr}
    (hin : s.inbox = pulseAt s.carrierOffLevel t d ++ rest)
    (hi : decodeOpword (pulseEndOpword (lengthCodeOf d s.paddingMs) (bOnlyOf s.lastPulseStartMillis t)) (t + d) =
      .instr i)
    (hv : exec i (started s t rest) = .next v) (n : Nat) : Sys2Proof.core.run (n + 2) s = Sys2Proof.core.run n v := by
  have hstart : step s = .next (started s t (onAt s.carrierOffLevel (t + d) :: rest)) :=
    Scope.step_of_inbox_edge hin (fetchInstr_start rfl)
  have hmeasured : measuredMs (s.latchStart t) (t + d) = d := add_sub_cancel_left t d
  have hend : fetchInstr (started s t (onAt s.carrierOffLevel (t + d) :: rest))
      { level := !s.carrierOffLevel, timestampMillis := t + d } = .instr i := by
    rw [fetchInstr_withInbox, fetchInstr_end (by simp), lengthCode, hmeasured]
    exact hi
  have hstop : step (started s t (onAt s.carrierOffLevel (t + d) :: rest)) = .next v :=
    (Scope.step_of_inbox_edge rfl hend).trans hv
  rw [Registers.run_succ hstart, Registers.run_succ hstop]

/-- One whole pulse that sends a data symbol, under padding 0. -/
theorem run_dataPulse {s : State} {t d : Millis} {rest : List Transaction} {i : Instr} {a b f : Bool}
    (hpad : s.paddingMs = 0) (hin : s.inbox = pulseAt s.carrierOffLevel t d ++ rest)
    (hflag : bOnlyOf s.lastPulseStartMillis t = f)
    (hi : decodeOpword (pulseEndOpword (lengthCodeOf d 0) f) (t + d) = .instr i) (hd : dataPair i = some (a, b, f))
    (hl : slotOf f s < 64) :
    ∃ v, (∀ n, Sys2Proof.core.run (n + 2) s = Sys2Proof.core.run n v) ∧ PairAt s (slotOf f s) a b v ∧
      Accepted (started s t rest) v := by
  obtain ⟨v, hv, hpair, hacc⟩ := exec_dataPair_pairAt (s := started s t rest) hd hl
  refine ⟨v, run_pulse hin ?_ hv, ⟨hpair.pointer, hpair.channelA, hpair.channelB⟩, hacc⟩
  rw [hpad, hflag]
  exact hi

/-- A second of one pulse, not B-only. -/
theorem run_onePulseSecond {s : State} {t d : Millis} {i : Instr} {a b : Bool} (hpad : s.paddingMs = 0)
    (hin : s.inbox = pulseAt s.carrierOffLevel t d) (hflag : bOnlyOf s.lastPulseStartMillis t = false)
    (hi : decodeOpword (pulseEndOpword (lengthCodeOf d 0) false) (t + d) = .instr i)
    (hd : dataPair i = some (a, b, false))
    (hl : slotOf false s < 64) :
    ∃ u, Sys2Proof.core.run s.inbox.length s = .next u ∧ u.inbox = [] ∧ PairAt s (slotOf false s) a b u := by
  obtain ⟨u, hrun, hpair, hacc⟩ := run_dataPulse hpad (rest := []) (by rw [hin, List.append_nil]) hflag hi hd hl
  refine ⟨u, ?_, hacc.inbox, hpair⟩
  rw [hin]
  exact hrun 0

/-- The second (0, 1): the second pulse starts 200 ms after the first, which makes it B-only, and it comes back to the
slot of the first. -/
theorem run_twoPulseSecond {s : State} {t : Millis} (hpad : s.paddingMs = 0)
    (hin : s.inbox = secAt s.carrierOffLevel t false true) (hflag : bOnlyOf s.lastPulseStartMillis t = false)
    (hl : slotOf false s < 64) :
    ∃ u, Sys2Proof.core.run s.inbox.length s = .next u ∧ u.inbox = [] ∧ PairAt s (slotOf false s) false true u := by
  obtain ⟨v, hrun, hpair, hacc⟩ := run_dataPulse (i := .sym1) hpad hin hflag rfl rfl hl
  have hslot : slotOf true v = slotOf false s := hpair.pointer
  have hlast : v.lastPulseStartMillis = t := hacc.last
  have hbOnly : bOnlyOf v.lastPulseStartMillis (t + 200#32) = true := by
    rw [bOnlyOf, hlast, add_sub_cancel_left]
    decide
  have hin' : v.inbox = pulseAt v.carrierOffLevel (t + 200#32) 100#32 ++ [] := by
    rw [hacc.inbox, hacc.carrierOff, List.append_nil]
    rfl
  obtain ⟨u, hrun', hpair', hacc'⟩ :=
    run_dataPulse (i := .sym1b) (hacc.padding.trans hpad) hin' hbOnly rfl rfl (hslot ▸ hl)
  refine ⟨u, ?_, hacc'.inbox, pairAt_rewrite hpair (hslot ▸ hpair')⟩
  rw [hin]
  exact (hrun 2).trans (hrun' 0)

theorem run_second {s : State} {t : Millis} (a b : Bool) (hpad : s.paddingMs = 0)
    (hin : s.inbox = secAt s.carrierOffLevel t a b) (hflag : bOnlyOf s.lastPulseStartMillis t = false)
    (hl : slotOf false s < 64) :
    ∃ u, Sys2Proof.core.run s.inbox.length s = .next u ∧ u.inbox = [] ∧ PairAt s (slotOf false s) a b u := by
  match a, b with
  | false, false => exact run_onePulseSecond (i := .sym1) hpad hin hflag rfl rfl hl
  | true, false => exact run_onePulseSecond (i := .sym2 false) hpad hin hflag rfl rfl hl
  | true, true => exact run_onePulseSecond (i := .sym3 false) hpad hin hflag rfl rfl hl
  | false, true => exact run_twoPulseSecond hpad hin hflag hl

/-- Settles O46, by the one or two pulses of the second. -/
theorem secondStatementWritesTheNextSlot : Obligations.SecondStatementWritesTheNextSlot := by
  intro s t a b hpad hgap hptr hin
  have hflag : bOnlyOf s.lastPulseStartMillis t = false := decide_eq_false (Nat.not_lt.2 hgap)
  obtain ⟨u, hrun, hinbox, hpair⟩ := run_second a b hpad hin hflag (slotOf_lt (.inr hptr))
  exact ⟨u, hrun, hinbox, hpair.pointer, hpair.channelA, hpair.channelB⟩

end Sys2Proof.Proofs.Encoding
end

section
/-! The statements about the pulse classifier (40_pulse_classifier.md): the truncated quotient (O10), the discarded pulse
(O15) and the pulse start (O14). -/

namespace Sys2Proof.Proofs.Classifier

open Sys2Proof.Machine

/-! ## Truncating the quotient -/

theorem saturateCode_of_nonpos {c : Int} (hc : c ≤ 0) : saturateCode c = 0 := by
  unfold saturateCode
  omega

/-- Truncating and flooring differ for negative sums only, and the operation word holds 0 for both quotients of those. -/
theorem saturateCode_tdiv (a : Int) {d : Int} (hd : 0 < d) : saturateCode (a.tdiv d) = saturateCode (a / d) := by
  rcases Int.le_total 0 a with hpos | hneg
  · rw [Int.tdiv_eq_ediv_of_nonneg hpos]
  · have htrunc : a.tdiv d ≤ 0 := (Int.tdiv_le_tdiv hd hneg).trans_eq (Int.zero_tdiv d)
    have hfloor : a / d ≤ 0 := Int.ediv_nonpos_of_nonpos_of_neg hneg hd
    rw [saturateCode_of_nonpos htrunc, saturateCode_of_nonpos hfloor]

/-- Settles O10, by the operation word, which is the same for the two quotients. -/
theorem truncatingTheQuotientSelectsTheSameOperation : Obligations.TruncatingTheQuotientSelectsTheSameOperation := by
  intro s e he
  rw [fetchInstr_end he, pulseEndOpword, pulseEndOpword, saturateCode_tdiv _ (by decide)]
  rfl

/-! ## Discarded pulses -/

/-- The prologue is the whole effect of the three discards. -/
theorem exec_of_discard {i : Instr} (hi : i = .discard0 ∨ i = .sym4 ∨ i = .long) (s : State) :
    exec i s = .next { s with timeAvailable := false } :=
  Registers.exec_of_execCase (.discard hi)

/-- The length codes 0 and below, 4, and 6 and above decode to a discard (30_encoding.md R95). -/
theorem fetchInstr_discard {s : State} {e : Edge} {code : Int} (he : e.level ≠ s.carrierOffLevel)
    (hcode : code = Int.fdiv (((e.timestampMillis - s.pendingPulseStartMillis).toNat : Int) + s.paddingMs.toInt) 100)
    (hrange : code ≤ 0 ∨ code = 4 ∨ 6 ≤ code) :
    ∃ i, fetchInstr s e = .instr i ∧ (i = .discard0 ∨ i = .sym4 ∨ i = .long) := by
  obtain ⟨-, hdecodes, -⟩ := Encoding.edgeDecodesByLengthCode
  obtain ⟨hzero, -, -, -, -, hfour, -, hsix⟩ := hdecodes s e code he hcode
  rcases hrange with h | h | h
  · exact ⟨.discard0, hzero h, .inl rfl⟩
  · exact ⟨.sym4, hfour h, .inr (.inl rfl)⟩
  · exact ⟨.long, hsix h, .inr (.inr rfl)⟩

/-- Settles O15, by the operations the three ranges of length codes decode to. -/
theorem discardedPulseOnlyClearsTimeAvailable : Obligations.DiscardedPulseOnlyClearsTimeAvailable := by
  constructor
  · intro s
    exact ⟨exec_of_discard (.inl rfl) s, exec_of_discard (.inr (.inl rfl)) s, exec_of_discard (.inr (.inr rfl)) s⟩
  · intro s e rest code hin he hcode hrange
    obtain ⟨i, hf, hi⟩ := fetchInstr_discard he hcode hrange
    exact (Scope.step_of_inbox_edge hin hf).trans (exec_of_discard hi _)

/-! ## Pulse starts -/

/-- The B-only window written out on numbers: strictly below 300, of a difference mod 2^32. -/
theorem bOnlyOf_eq_decide_mod (last t : Millis) :
    bOnlyOf last t = decide ((2 ^ 32 + t.toNat - last.toNat) % 2 ^ 32 < 300) := by
  have hlast : last.toNat < 2 ^ 32 := last.isLt
  have hsum : 2 ^ 32 - last.toNat + t.toNat = 2 ^ 32 + t.toNat - last.toNat := by omega
  rw [bOnlyOf, BitVec.toNat_sub, hsum]

theorem exec_pstart (t : Millis) (s : State) : exec (.pstart t) s = .next { s with
    bOnlyFlag := decide ((2 ^ 32 + t.toNat - s.lastPulseStartMillis.toNat) % 2 ^ 32 < 300)
    pendingPulseStartMillis := t } := by
  rw [← bOnlyOf_eq_decide_mod]
  exact Registers.exec_of_execCase (.start t)

/-- Settles O14, by the operation and by the decoding of a pulse start. -/
theorem pstartLatchesTheStartAndTheFlag : Obligations.PstartLatchesTheStartAndTheFlag := by
  constructor
  · intro s t
    exact exec_pstart t s
  · intro s e rest hin he
    exact (Scope.step_of_inbox_edge hin (Encoding.fetchInstr_start he)).trans (exec_pstart e.timestampMillis _)

end Sys2Proof.Proofs.Classifier
end

section
/-! The statements about the bit channel accumulator (41_bit_accumulator.md): the hand-off of SYM5 (O16), the overflow (O17)
and the pointer after a data pulse (O19). -/

namespace Sys2Proof.Proofs.Accumulator

open Sys2Proof.Machine

/-- FrameReset with the values of R151 written out. -/
theorem frameReset_eq (s : State) : s.frameReset = { s with
    bitPointer := 0
    channelA := 0xFFFFFFFFFFFFFFFF#64
    channelB := 0
    draws := s.draws + 1 } := rfl

/-! ## SYM5 -/

/-- Once the prologue has cleared `timeAvailable`, the hand-off moves `frameReady` into it, waiting frame or not. -/
theorem handOff_of_not_timeAvailable {s : State} (h : s.timeAvailable = false) :
    s.handOff = { s with timeAvailable := s.frameReady, frameReady := false } := by
  unfold State.handOff
  cases hready : s.frameReady with
  | true => rfl
  | false => rw [h]; rfl

theorem exec_sym5 (s : State) : exec .sym5 s = .next { s with
    timeAvailable := s.frameReady
    frameReady := false
    lastPulseStartMillis := s.pendingPulseStartMillis
    bitPointer := 0
    channelA := 0xFFFFFFFFFFFFFFFF#64
    channelB := 0
    draws := s.draws + 1 } := by
  rw [Registers.exec_of_execCase .boundary, handOff_of_not_timeAvailable rfl, frameReset_eq]
  rfl

/-- Settles O16, by the operation and by the decoding of length code 5. -/
theorem sym5HandsOverAndStartsAFrame : Obligations.Sym5HandsOverAndStartsAFrame := by
  constructor
  · exact exec_sym5
  · intro s e rest hin he hcode
    have hf : fetchInstr s e = .instr .sym5 :=
      Encoding.fetchInstr_of_lengthCode he ((Encoding.lengthCode_eq_fdiv s e.timestampMillis).trans hcode)
    exact (Scope.step_of_inbox_edge hin hf).trans (exec_sym5 _)

/-! ## Overflow -/

/-- An unflagged data symbol on the last slot abandons the frame (R156). -/
theorem exec_dataPair_overflow {s : State} {i : Instr} {a b : Bool} (hd : dataPair i = some (a, b, false))
    (hp : s.bitPointer = 63) : exec i s = .next { s with
      timeAvailable := false
      lastPulseStartMillis := s.pendingPulseStartMillis
      bitPointer := 0
      channelA := 0xFFFFFFFFFFFFFFFF#64
      channelB := 0
      draws := s.draws + 1 } := by
  have hslot : slotOf false s = 64 := by rw [slotOf, hp]; rfl
  rw [Registers.exec_of_execCase (.overflow hd hslot), frameReset_eq]
  rfl

theorem exec_dataPair_pointer {s : State} {i : Instr} {a b f : Bool} (hd : dataPair i = some (a, b, f))
    (h : f = true ∨ s.bitPointer ≠ 63) : ∃ t, exec i s = .next t ∧ t.bitPointer.toNat = slotOf f s := by
  have hbelow : s.bitPointer ≠ 63 → s.bitPointer.toNat < 63 := by bv_omega
  obtain ⟨t, ht, hpair, -⟩ := Encoding.exec_dataPair_pairAt hd (Encoding.slotOf_lt (h.imp_right hbelow))
  exact ⟨t, ht, hpair.pointer⟩

/-- Settles O17, by the two cases of a data symbol's slot: 64, or one of the channels'. -/
theorem overflowResetsTheFrameOnly : Obligations.OverflowResetsTheFrameOnly := by
  intro s i a b f hd
  constructor
  · rintro rfl hp
    exact exec_dataPair_overflow hd hp
  · exact exec_dataPair_pointer hd

/-! ## The pointer after a data pulse -/

/-- The length codes 1, 2 and 3 decode to a data symbol, flagged as `bOnlyFlag` is (30_encoding.md R95). -/
theorem fetchInstr_dataPair {s : State} {e : Edge} {code : Int} (he : e.level ≠ s.carrierOffLevel)
    (hcode : code = Int.fdiv (((e.timestampMillis - s.pendingPulseStartMillis).toNat : Int) + s.paddingMs.toInt) 100)
    (hlo : 1 ≤ code) (hhi : code ≤ 3) :
    ∃ i a b, fetchInstr s e = .instr i ∧ dataPair i = some (a, b, s.bOnlyFlag) := by
  obtain ⟨-, hdecodes, -⟩ := Encoding.edgeDecodesByLengthCode
  obtain ⟨-, hone, honeB, htwo, hthree, -⟩ := hdecodes s e code he hcode
  obtain h | h | h : code = 1 ∨ code = 2 ∨ code = 3 := by omega
  · cases hflag : s.bOnlyFlag with
    | false => exact ⟨.sym1, _, _, hone h hflag, rfl⟩
    | true => exact ⟨.sym1b, _, _, honeB h hflag, rfl⟩
  · exact ⟨.sym2 s.bOnlyFlag, _, _, htwo h, rfl⟩
  · exact ⟨.sym3 s.bOnlyFlag, _, _, hthree h, rfl⟩

/-- The pointer goes to the symbol's slot, and the slot 64 wraps to 0. -/
theorem exec_dataPair_pointer_wraps {s : State} {i : Instr} {a b f : Bool} (hd : dataPair i = some (a, b, f)) :
    ∃ t, exec i s = .next t ∧ t.bitPointer.toNat =
      if f then s.bitPointer.toNat else if s.bitPointer.toNat = 63 then 0 else s.bitPointer.toNat + 1 := by
  cases f with
  | true => exact exec_dataPair_pointer hd (.inl rfl)
  | false =>
    by_cases hp : s.bitPointer = 63
    · exact ⟨_, exec_dataPair_overflow hd hp, by rw [hp]; rfl⟩
    · obtain ⟨t, ht, hptr⟩ := exec_dataPair_pointer hd (.inr hp)
      have hne : s.bitPointer.toNat ≠ 63 := by bv_omega
      exact ⟨t, ht, by rw [hptr, if_neg hne]; rfl⟩

/-- Settles O19, by the data symbol that the length code decodes to. -/
theorem pointerFollowsTheBOnlyFlag : Obligations.PointerFollowsTheBOnlyFlag := by
  intro s e rest code hin he hcode hlo hhi
  obtain ⟨i, a, b, hf, hd⟩ := fetchInstr_dataPair he hcode hlo hhi
  rw [Scope.step_of_inbox_edge hin hf]
  exact exec_dataPair_pointer_wraps (s := s.withInbox rest) hd

end Sys2Proof.Proofs.Accumulator
end

section
/-! The statements about the marker detector (42_marker_detector.md): the marker in one channel content (O26), the write that
completes no marker (O20), what a match records (O21), and the match that is repeated on its slot (O47). -/

namespace Sys2Proof.Proofs.Marker

open Sys2Proof.Machine

/-! ## The marker in one channel content -/

theorem chunkRead_eq_marker_iff (ch : Channel) {p : Nat} (h7 : 7 ≤ p) (h63 : p ≤ 63) :
    (chunkRead ch (p - 7) 8).map Chunk.value = some 0x7E#8 ↔ markerAt ch p := by
  have hfits : p - 7 + 8 ≤ 64 := by omega
  rw [chunkRead_eq_some.2 ⟨⟨by decide, by decide, hfits⟩, rfl⟩, Option.map_some, Option.some_inj]
  exact markerChunk_iff ch h7

/-- The 0 that ends the earlier marker would have to be one of the six 1s of the later. -/
theorem not_markerAt_of_markerAt_before {ch : Channel} {p q : Nat} (hlt : p < q) (hnear : q ≤ p + 6)
    (hp : markerAt ch p) : ¬ markerAt ch q := by
  rintro ⟨-, hones, -⟩
  obtain ⟨-, -, hend⟩ := hp
  have hone : bitAt ch (q - (q - p)) = true := hones (q - p) (by omega) (by omega)
  rw [Nat.sub_sub_self hlt.le, hend] at hone
  cases hone

/-- Settles O26, by the bit at the earlier pointer, which the two markers want different. -/
theorem markerMatchesAtOnePointerOnly : Obligations.MarkerMatchesAtOnePointerOnly := by
  intro ch p q h58 hlt h61 hp hq
  rw [chunkRead_eq_marker_iff ch (by omega) (by omega)] at hp hq
  exact not_markerAt_of_markerAt_before hlt (by omega) hp hq

/-! ## A write that completes no marker -/

/-- Settles O20, by the write alone, which is then the whole effect. -/
theorem noMatchLeavesEveryStatusRegister : Obligations.NoMatchLeavesEveryStatusRegister := by
  intro s i a b f hd hfits hm
  have hl := Encoding.slotOf_lt hfits
  have hpair := Encoding.pairAt_pairWritten (s := s) hl a b
  exact ⟨_, Registers.exec_of_execCase (.write hd hl hm), hpair.pointer, hpair.channelA, hpair.channelB, rfl⟩

/-! ## What a match records -/

theorem slotOf_lt_of_completesMarker {s : State} {a f : Bool} (hm : completesMarker a f s) : slotOf f s < 64 := by
  have ⟨_, h61, _⟩ := hm
  omega

theorem matched_frameLengthSeconds (P : Config.Params) (s : State) :
    (matched P s).frameLengthSeconds = BitVec.ofNat 8 s.bitPointer.toNat := by rw [matched_frame]

theorem matched_leapSecondIndicator (P : Config.Params) (s : State) :
    (matched P s).leapSecondIndicator = leapPolicy s.bitPointer.toNat := by rw [matched_frame]

theorem matched_draws (P : Config.Params) (s : State) : (matched P s).draws = s.draws := by rw [matched_frame]

theorem matched_parityOutcome {s : State} (h58 : 58 ≤ s.bitPointer.toNat) :
    (matched Config.params s).parityOutcome = parityVerdict s.channelA s.channelB s.bitPointer.toNat := by
  rw [matched_params s h58]
  split
  · next hok => rw [assembled_frame, hok]; rfl
  · rfl

theorem matched_lastFrame_of_ok {s : State} (h58 : 58 ≤ s.bitPointer.toNat)
    (hok : parityVerdict s.channelA s.channelB s.bitPointer.toNat = .ok) :
    (matched Config.params s).lastFrame = (assembled Config.params s.recordMatch.passParity).lastFrame := by
  rw [matched_params s h58, if_pos hok]

theorem matched_lastFrame_of_ne_ok {s : State} (h58 : 58 ≤ s.bitPointer.toNat)
    (hbad : parityVerdict s.channelA s.channelB s.bitPointer.toNat ≠ .ok) :
    (matched Config.params s).lastFrame = s.lastFrame := by
  rw [matched_params s h58, if_neg hbad]
  rfl

/-- Settles O21, by the registers a match writes, read at the symbol's slot. -/
theorem matchRecordsLengthLeapAndVerdict : Obligations.MatchRecordsLengthLeapAndVerdict := by
  intro s i a b f hd hm
  have ⟨h58, h61, _⟩ := hm
  have hptr := pairWritten_pointer (s := s) (a := a) (b := b) (slotOf_lt_of_completesMarker hm)
  have hgate : 58 ≤ (pairWritten s (slotOf f s) a b).bitPointer.toNat := hptr.symm ▸ h58
  refine ⟨_, Registers.exec_of_execCase (.hit hd hm), ?_, ?_, ?_, ?_⟩
  · rw [matched_frameLengthSeconds, hptr, BitVec.toNat_ofNat]
    omega
  · rw [matched_leapSecondIndicator, hptr]
    rfl
  · rw [matched_parityOutcome hgate, Registers.matched_channelA, Registers.matched_channelB, hptr]
  · rw [Registers.matched_frameReady hgate, matched_parityOutcome hgate]

/-! ## What a match reads: the slots below the pointer -/

theorem onesIn_congr {x y : Channel} {lo n : Nat} (h : ∀ k, lo ≤ k → k < lo + n → bitAt x k = bitAt y k) :
    onesIn x lo n = onesIn y lo n := by
  rw [← onesOf_bitsFrom, ← onesOf_bitsFrom, bitsFrom_congr h]

theorem sliceByte_congr {x y : Channel} {lo w : Nat} (hfits : lo + w ≤ 64)
    (h : ∀ k, lo ≤ k → k < lo + w → bitAt x k = bitAt y k) : sliceByte x lo w = sliceByte y lo w := by
  rw [← byte_bitsFrom x lo w hfits, ← byte_bitsFrom y lo w hfits, bitsFrom_congr h]

section
variable {chA chB chA' chB' : Channel} {p : Nat}

/-- Each group's data bits and its parity bit stand below the pointer (43_field_parity.md R186). -/
theorem parityVerdict_congr (h58 : 58 ≤ p) (hA : ∀ k, k < p → bitAt chA k = bitAt chA' k)
    (hB : ∀ k, k < p → bitAt chB k = bitAt chB' k) : parityVerdict chA chB p = parityVerdict chA' chB' p := by
  have hrange : ∀ {lo n}, lo + n ≤ p → onesIn chA lo n = onesIn chA' lo n := fun hend =>
    onesIn_congr fun k _ hk => hA k (Nat.lt_of_lt_of_le hk hend)
  have hyear : yearTotal chA chB p = yearTotal chA' chB' p := by
    rw [yearTotal, yearTotal, hrange (by omega), hB _ (by omega)]
  have hmonth : monthTotal chA chB p = monthTotal chA' chB' p := by
    rw [monthTotal, monthTotal, hrange (by omega), hB _ (by omega)]
  have hweekday : weekdayTotal chA chB p = weekdayTotal chA' chB' p := by
    rw [weekdayTotal, weekdayTotal, hrange (by omega), hB _ (by omega)]
  have hhour : hourTotal chA chB p = hourTotal chA' chB' p := by
    rw [hourTotal, hourTotal, hrange (by omega), hB _ (by omega)]
  rw [parityVerdict, parityVerdict, hyear, hmonth, hweekday, hhour]

/-- Each field stands below the pointer (20_memory.md R72), and so do the two DUT1 windows. -/
theorem frameOf_congr (h58 : 58 ≤ p) (h61 : p ≤ 61) (hA : ∀ k, k < p → bitAt chA k = bitAt chA' k)
    (hB : ∀ k, k < p → bitAt chB k = bitAt chB' k) (leap : LeapIndicator) (length : Byte) (epoch : BitVec 64) :
    frameOf chA chB p leap length epoch = frameOf chA' chB' p leap length epoch := by
  have hfield : ∀ {lo w}, lo + w ≤ p → sliceByte chA lo w = sliceByte chA' lo w := fun hend =>
    sliceByte_congr (by omega) fun k _ hk => hA k (Nat.lt_of_lt_of_le hk hend)
  have hdut1 : ∀ {lo}, lo + 8 ≤ p → onesIn chB lo 8 = onesIn chB' lo 8 := fun hend =>
    onesIn_congr fun k _ hk => hB k (Nat.lt_of_lt_of_le hk hend)
  rw [frameOf, frameOf, hfield (by omega), hfield (by omega), hfield (by omega), hfield (by omega), hfield (by omega),
    hfield (by omega), hB _ (by omega), hB _ (by omega), hdut1 (by omega), hdut1 (by omega)]

end

/-- The record committed is determined by the frame extracted and by the frame's free value. -/
theorem assembled_lastFrame_congr {P : Config.Params} {s t : State} (hframe : ∀ e, frameAt P s e = frameAt P t e)
    (hdraws : s.draws = t.draws) : (assembled P s).lastFrame = (assembled P t).lastFrame := by
  rw [assembled_lastFrame, assembled_lastFrame, hframe, hframe, hdraws]

/-! ## A match repeated on its slot -/

/-- Two states of one frame with the pointer on one slot: only that slot's own pair may differ. -/
structure SameButSlot (s t : State) : Prop where
  pointer : t.bitPointer = s.bitPointer
  draws : t.draws = s.draws
  channelA : ∀ k, k < 64 → k ≠ s.bitPointer.toNat → bitAt t.channelA k = bitAt s.channelA k
  channelB : ∀ k, k < 64 → k ≠ s.bitPointer.toNat → bitAt t.channelB k = bitAt s.channelB k

/-- The registers a match writes are equal. -/
structure SameRecords (s t : State) : Prop where
  length : t.frameLengthSeconds = s.frameLengthSeconds
  leap : t.leapSecondIndicator = s.leapSecondIndicator
  outcome : t.parityOutcome = s.parityOutcome
  ready : t.frameReady = s.frameReady
  last : t.lastFrame = s.lastFrame

theorem sameButSlot_refl (s : State) : SameButSlot s s where
  pointer := rfl
  draws := rfl
  channelA _ _ _ := rfl
  channelB _ _ _ := rfl

theorem SameRecords.trans {s t u : State} (hst : SameRecords s t) (htu : SameRecords t u) : SameRecords s u where
  length := htu.length.trans hst.length
  leap := htu.leap.trans hst.leap
  outcome := htu.outcome.trans hst.outcome
  ready := htu.ready.trans hst.ready
  last := htu.last.trans hst.last

theorem sameButSlot_matched (P : Config.Params) {s t : State} (h : SameButSlot s t) : SameButSlot s (matched P t) where
  pointer := (Registers.matched_bitPointer P t).trans h.pointer
  draws := (matched_draws P t).trans h.draws
  channelA := by rw [Registers.matched_channelA]; exact h.channelA
  channelB := by rw [Registers.matched_channelB]; exact h.channelB

/-- A flagged data symbol writes the slot the pointer is on. -/
theorem sameButSlot_pairWritten {s t : State} (h : SameButSlot s t) (a b : Bool) :
    SameButSlot s (pairWritten t t.bitPointer.toNat a b) where
  pointer := (BitVec.ofNat_toNat 6 t.bitPointer).trans ((BitVec.setWidth_eq _).trans h.pointer)
  draws := h.draws
  channelA k hk hne := by
    have hpair := Encoding.pairAt_pairWritten (s := t) t.bitPointer.isLt a b
    rw [hpair.channelA k hk, if_neg (h.pointer ▸ hne), h.channelA k hk hne]
  channelB k hk hne := by
    have hpair := Encoding.pairAt_pairWritten (s := t) t.bitPointer.isLt a b
    rw [hpair.channelB k hk, if_neg (h.pointer ▸ hne), h.channelB k hk hne]

theorem flag_of_staysOnSlot {i : Instr} {a b f : Bool} (hd : dataPair i = some (a, b, f)) (hstay : staysOnSlot i = true) :
    f = true := by
  cases i with
  | sym1b => cases hd; rfl
  | sym2 c => cases hd; exact hstay
  | sym3 c => cases hd; exact hstay
  | sym1 => cases hstay
  | _ => cases hd

theorem SameButSlot.below {s t : State} (h : SameButSlot s t) (k : Nat) (hk : k < s.bitPointer.toNat) :
    bitAt t.channelA k = bitAt s.channelA k ∧ bitAt t.channelB k = bitAt s.channelB k :=
  have hk64 := hk.trans s.bitPointer.isLt
  ⟨h.channelA k hk64 hk.ne, h.channelB k hk64 hk.ne⟩

section
variable {s t : State} {i : Instr} (h58 : 58 ≤ s.bitPointer.toNat) (h61 : s.bitPointer.toNat ≤ 61)
include h58

theorem SameButSlot.parityVerdict_eq (h : SameButSlot s t) :
    parityVerdict t.channelA t.channelB t.bitPointer.toNat = parityVerdict s.channelA s.channelB s.bitPointer.toNat := by
  rw [h.pointer]
  exact parityVerdict_congr h58 (fun k hk => (h.below k hk).1) fun k hk => (h.below k hk).2

include h61

theorem SameButSlot.committed_eq (h : SameButSlot s t) :
    (assembled Config.params t.recordMatch.passParity).lastFrame =
      (assembled Config.params s.recordMatch.passParity).lastFrame := by
  refine assembled_lastFrame_congr (fun epoch => ?_) h.draws
  rw [frameAt_params t.recordMatch.passParity (h.pointer ▸ h58) (h.pointer ▸ h61),
    frameAt_params s.recordMatch.passParity h58 h61]
  simp only [State.passParity_channelA, State.passParity_channelB, State.passParity_bitPointer,
    State.passParity_leapSecondIndicator, State.passParity_frameLengthSeconds, State.recordMatch_channelA,
    State.recordMatch_channelB, State.recordMatch_bitPointer, State.recordMatch_leapSecondIndicator,
    State.recordMatch_frameLengthSeconds, h.pointer]
  exact frameOf_congr h58 h61 (fun k hk => (h.below k hk).1) (fun k hk => (h.below k hk).2) _ _ _

/-- A second match on the slot records what the first did: a passing frame is committed anew and equal, and a failing one
leaves the record the first left. -/
theorem sameRecords_matched (h : SameButSlot s t) (hlast : t.lastFrame = (matched Config.params s).lastFrame) :
    SameRecords (matched Config.params s) (matched Config.params t) := by
  have hgate : 58 ≤ t.bitPointer.toNat := h.pointer ▸ h58
  have hverdict := h.parityVerdict_eq h58
  constructor
  case length => rw [matched_frameLengthSeconds, matched_frameLengthSeconds, h.pointer]
  case leap => rw [matched_leapSecondIndicator, matched_leapSecondIndicator, h.pointer]
  case outcome => rw [matched_parityOutcome hgate, matched_parityOutcome h58, hverdict]
  case ready => rw [Registers.matched_frameReady hgate, Registers.matched_frameReady h58, hverdict]
  case last =>
    by_cases hok : parityVerdict s.channelA s.channelB s.bitPointer.toNat = .ok
    · rw [matched_lastFrame_of_ok hgate (hverdict.trans hok), matched_lastFrame_of_ok h58 hok, h.committed_eq h58 h61]
    · rw [matched_lastFrame_of_ne_ok hgate (hverdict ▸ hok), hlast]

/-- An operation that stays on the slot of the match in `s` leaves the records of that match. -/
theorem exec_staysOnSlot_keeps_match (hstay : staysOnSlot i = true) (h : SameButSlot s t)
    (hrec : SameRecords (matched Config.params s) t) :
    ∃ u, exec i t = .next u ∧ SameButSlot s u ∧ SameRecords (matched Config.params s) u := by
  obtain ⟨u, hu, hc⟩ := Registers.exec_answers i t
  refine ⟨u, hu, ?_⟩
  cases hc with
  | start v => exact ⟨⟨h.pointer, h.draws, h.channelA, h.channelB⟩, hrec.trans ⟨rfl, rfl, rfl, rfl, rfl⟩⟩
  | discard hi => exact ⟨⟨h.pointer, h.draws, h.channelA, h.channelB⟩, hrec.trans ⟨rfl, rfl, rfl, rfl, rfl⟩⟩
  | boundary => cases hstay
  | overflow hd hp =>
    obtain rfl := flag_of_staysOnSlot hd hstay
    exact absurd hp (Nat.ne_of_lt t.bitPointer.isLt)
  | write hd hl hm =>
    obtain rfl := flag_of_staysOnSlot hd hstay
    exact ⟨sameButSlot_pairWritten h _ _, hrec.trans ⟨rfl, rfl, rfl, rfl, rfl⟩⟩
  | @hit _ a b f hd hm =>
    obtain rfl := flag_of_staysOnSlot hd hstay
    have hwritten := sameButSlot_pairWritten h a b
    exact ⟨sameButSlot_matched _ hwritten, sameRecords_matched h58 h61 hwritten hrec.last⟩

theorem runOps_staysOnSlot_keeps_match {later : List Instr} (hstay : ∀ j ∈ later, staysOnSlot j = true)
    (h : SameButSlot s t) (hrec : SameRecords (matched Config.params s) t) :
    ∃ u, runOps later t = .next u ∧ SameButSlot s u ∧ SameRecords (matched Config.params s) u := by
  induction later generalizing t with
  | nil => exact ⟨t, rfl, h, hrec⟩
  | cons j later ih =>
    obtain ⟨v, hv, hsame, hrec'⟩ := exec_staysOnSlot_keeps_match h58 h61 (hstay j List.mem_cons_self) h hrec
    rw [Registers.runOps_cons hv]
    exact ih (fun k hk => hstay k (List.mem_cons_of_mem j hk)) hsame hrec'

end

/-- Settles O47, by the operations after the match one by one: each keeps the slots but the pointer's own, and the records. -/
theorem repeatedMatchProducesAnEqualRecord : Obligations.RepeatedMatchProducesAnEqualRecord := by
  intro s i a b f hd hm later hstay
  have ⟨h58, h61, _⟩ := hm
  have hptr := pairWritten_pointer (s := s) (a := a) (b := b) (slotOf_lt_of_completesMarker hm)
  have hmatch := sameButSlot_matched Config.params (sameButSlot_refl (pairWritten s (slotOf f s) a b))
  obtain ⟨u, hu, hsame, hrec⟩ := runOps_staysOnSlot_keeps_match (hptr.symm ▸ h58) (hptr.symm ▸ h61) hstay hmatch
    ⟨rfl, rfl, rfl, rfl, rfl⟩
  refine ⟨_, u, Registers.exec_of_execCase (.hit hd hm), hu, hsame.pointer.trans hmatch.pointer.symm, fun k hk hne => ?_,
    hrec.length, hrec.leap, hrec.outcome, hrec.ready, hrec.last⟩
  rw [← hptr] at hne
  rw [hsame.channelA k hk hne, hsame.channelB k hk hne, hmatch.channelA k hk hne, hmatch.channelB k hk hne]
  exact ⟨rfl, rfl⟩

end Sys2Proof.Proofs.Marker
end

section
/-! The statements about the parity validation (43_field_parity.md): the first odd group of a legal table (O24), flipped bits
(O25), and the whole effect of a match whose validation fails (O22) or passes (O23). -/

namespace Sys2Proof.Proofs.Parity

open Sys2Proof.Machine

/-! ## The first odd group -/

/-- Settles O24, by the search for an odd total that the validation of a legal table is. -/
theorem validationReportsTheFirstOddGroup : Obligations.ValidationReportsTheFirstOddGroup := by
  intro groups chA chB p hwf h58 h61
  have htotal : ∀ g ∈ groups, groupTotal chA chB p g = some (groupTotalAt chA chB p g) := fun g hg =>
    groupTotal_of_wf (hwf g hg) h58 h61 chA chB
  rw [firstFailure_of_wf (List.all_eq_true.2 hwf) h58 h61]
  cases hfind : groups.find? fun g => decide (groupTotalAt chA chB p g % 2 = 1) with
  | some g =>
    obtain ⟨hodd, before, after, rfl, hbefore⟩ := List.find?_eq_some_iff_append.1 hfind
    refine .inl ⟨before, g, after, rfl, fun h hh => ?_, ⟨_, htotal g (by simp), by simpa using hodd⟩, rfl⟩
    exact ⟨_, htotal h (by simp [hh]), by simpa using hbefore h hh⟩
  | none =>
    have heven := List.find?_eq_none.1 hfind
    exact .inr ⟨fun h hh => ⟨_, htotal h hh, by simpa using heven h hh⟩, rfl⟩

/-! ## The parity of each group's total -/

/-- The places of one group as distances back from the pointer: `width` data bits of channel A from `first` back on, and the
parity bit of channel B. -/
structure Places where
  first : Nat
  width : Nat
  parity : Nat

/-- The places of the group that reports a code, as the reference totals of Safety.lean have them (43_field_parity.md R186);
no group reports `ok`. -/
def placesOf : ParityOutcome → Option Places
  | .ok => none
  | .yearFailed => some { first := 42, width := 8, parity := 5 }
  | .monthFailed => some { first := 34, width := 11, parity := 4 }
  | .weekdayFailed => some { first := 23, width := 3, parity := 3 }
  | .hourFailed => some { first := 20, width := 13, parity := 2 }

/-- A group's set data bits and its parity bit (43_field_parity.md R185). -/
def placesTotal (chA chB : Channel) (p : Nat) (g : Places) : Nat :=
  onesIn chA (p - g.first) g.width + (bitAt chB (p - g.parity)).toNat

/-- Is the total of the group that reports this code odd? -/
def groupOdd (chA chB : Channel) (p : Nat) (c : ParityOutcome) : Bool :=
  (placesOf c).any fun g => (placesTotal chA chB p g).bodd

/-- Is index `i` of channel A a data bit of the group that reports this code? -/
def holdsData (p i : Nat) (c : ParityOutcome) : Bool :=
  (placesOf c).any fun g => decide (p - g.first ≤ i ∧ i < p - g.first + g.width)

/-- Is index `k` of channel B the parity bit of the group that reports this code? -/
def holdsParity (p k : Nat) (c : ParityOutcome) : Bool := (placesOf c).any fun g => decide (p - g.parity = k)

theorem mod_two_eq_one_iff_bodd (n : Nat) : n % 2 = 1 ↔ n.bodd = true := by
  rw [Nat.mod_two_of_bodd, Bool.toNat_eq_one]

theorem parityVerdict_eq_groupOdd (chA chB : Channel) (p : Nat) : parityVerdict chA chB p =
    if groupOdd chA chB p .yearFailed then .yearFailed
    else if groupOdd chA chB p .monthFailed then .monthFailed
    else if groupOdd chA chB p .weekdayFailed then .weekdayFailed
    else if groupOdd chA chB p .hourFailed then .hourFailed
    else .ok := by
  simp only [parityVerdict, mod_two_eq_one_iff_bodd]
  rfl

theorem parityVerdict_eq_ok_iff {chA chB : Channel} {p : Nat} :
    parityVerdict chA chB p = .ok ↔ ∀ c, groupOdd chA chB p c = false := by
  rw [parityVerdict_eq_groupOdd]
  constructor
  · intro h c
    split_ifs at h with hyear hmonth hweekday hhour
    cases c with
    | ok => rfl
    | yearFailed => exact Bool.eq_false_of_not_eq_true hyear
    | monthFailed => exact Bool.eq_false_of_not_eq_true hmonth
    | weekdayFailed => exact Bool.eq_false_of_not_eq_true hweekday
    | hourFailed => exact Bool.eq_false_of_not_eq_true hhour
  · intro h
    simp [h]

/-- Where one group alone is odd, the order of the table does not matter. -/
theorem parityVerdict_eq_of_only_odd {chA chB : Channel} {p : Nat} {code : ParityOutcome}
    (h : ∀ c, groupOdd chA chB p c = decide (c = code)) : parityVerdict chA chB p = code := by
  rw [parityVerdict_eq_groupOdd]
  cases code <;> simp [h]

/-- The validation of the default table is the reference's. -/
theorem firstFailure_params {p : Nat} (h58 : 58 ≤ p) (h61 : p ≤ 61) (chA chB : Channel) :
    firstFailure chA chB p Config.params.parityTable =
      some (if parityVerdict chA chB p = .ok then none else some (parityVerdict chA chB p)) := by
  have hptr : (State.reset.setSlot (BitVec.ofNat 6 p) chA chB).bitPointer.toNat = p := toNat_pointer (by omega)
  have hverdict := verdictAt_params (State.reset.setSlot (BitVec.ofNat 6 p) chA chB) (hptr.symm ▸ h58)
  rw [verdictAt, hptr] at hverdict
  rw [firstFailure_of_wf (by decide) h58 h61]
  exact congrArg some hverdict

theorem firstFailure_eq_none_iff {chA chB : Channel} {p : Nat} (h58 : 58 ≤ p) (h61 : p ≤ 61) :
    firstFailure chA chB p Config.params.parityTable = some none ↔ ∀ c, groupOdd chA chB p c = false := by
  rw [firstFailure_params h58 h61, ← parityVerdict_eq_ok_iff, Option.some_inj]
  split <;> simp [*]

theorem firstFailure_of_only_odd {chA chB : Channel} {p : Nat} {code : ParityOutcome} (h58 : 58 ≤ p) (h61 : p ≤ 61)
    (hcode : code ≠ .ok) (h : ∀ c, groupOdd chA chB p c = decide (c = code)) :
    firstFailure chA chB p Config.params.parityTable = some (some code) := by
  rw [firstFailure_params h58 h61, parityVerdict_eq_of_only_odd h, if_neg hcode]

/-! ## Flipped bits -/

/-- The channel with the bit at one index inverted. -/
def flipBit (ch : Channel) (i : Nat) : Channel := assignBit ch i (!bitAt ch i)

theorem bitAt_flipBit (ch : Channel) {i k : Nat} (hi : i < 64) (hk : k < 64) :
    bitAt (flipBit ch i) k = (bitAt ch k ^^ decide (k = i)) := by
  rw [flipBit, bitAt_assignBit ch _ hi hk]
  by_cases h : k = i <;> simp [h]

/-- To invert two bits at once, as R195 has it, is to invert one after the other. -/
theorem assignBit_flipBit_of_ne (ch : Channel) {i j : Nat} (hi : i < 64) (hj : j < 64) (hne : j ≠ i) :
    assignBit (flipBit ch i) j (!bitAt ch j) = flipBit (flipBit ch i) j := by
  rw [flipBit.eq_def (flipBit ch i), bitAt_flipBit ch hi hj, decide_eq_false hne, Bool.xor_false]

theorem onesIn_succ (ch : Channel) (lo n : Nat) : onesIn ch lo (n + 1) = onesIn ch lo n + (bitAt ch (lo + n)).toNat := by
  rw [onesIn, onesIn, List.range_succ, List.filter_append, List.length_append]
  cases h : bitAt ch (lo + n) <;> simp [h]

theorem bodd_toNat (b : Bool) : b.toNat.bodd = b := by cases b <;> rfl

/-- A flipped bit changes the parity of the runs it stands in, and of no other. -/
theorem onesIn_flipBit_bodd (ch : Channel) {i lo n : Nat} (hi : i < 64) (hfits : lo + n ≤ 64) :
    (onesIn (flipBit ch i) lo n).bodd = ((onesIn ch lo n).bodd ^^ decide (lo ≤ i ∧ i < lo + n)) := by
  induction n with
  | zero =>
    have hout : decide (lo ≤ i ∧ i < lo + 0) = false := decide_eq_false (by omega)
    rw [hout, Bool.xor_false]
    rfl
  | succ n ih =>
    have hlast : decide (lo ≤ i ∧ i < lo + (n + 1)) = (decide (lo ≤ i ∧ i < lo + n) ^^ decide (lo + n = i)) := by
      by_cases h : lo + n = i
      · simp [← h]
      · have hiff : (lo ≤ i ∧ i < lo + (n + 1)) ↔ (lo ≤ i ∧ i < lo + n) := by omega
        simp only [h, hiff, decide_false, Bool.xor_false]
    rw [onesIn_succ, onesIn_succ, Nat.bodd_add, Nat.bodd_add, bodd_toNat, bodd_toNat, ih (by omega),
      bitAt_flipBit ch hi (by omega), hlast]
    simp only [Bool.xor_assoc, Bool.xor_left_comm]

/-- Every group ends below the pointer. -/
theorem placesOf_bounds {c : ParityOutcome} {g : Places} (h : placesOf c = some g) :
    g.width ≤ g.first ∧ g.first ≤ 42 ∧ g.parity ≤ 5 := by
  cases c <;> cases h <;> decide

/-- No two groups share a data bit or a parity bit. -/
theorem placesOf_apart {c c' : ParityOutcome} {g g' : Places} (hne : c ≠ c') (h : placesOf c = some g)
    (h' : placesOf c' = some g') :
    (g.first + g'.width ≤ g'.first ∨ g'.first + g.width ≤ g.first) ∧ g.parity ≠ g'.parity := by
  revert hne
  cases c <;> cases h <;> cases c' <;> cases h' <;> decide

section
variable {chA chB : Channel} {p i : Nat} (h58 : 58 ≤ p) (h61 : p ≤ 61) (hi : i < 64) (c : ParityOutcome)
include h58 h61 hi

theorem groupOdd_flipA : groupOdd (flipBit chA i) chB p c = (groupOdd chA chB p c ^^ holdsData p i c) := by
  cases h : placesOf c with
  | none => simp [groupOdd, holdsData, h]
  | some g =>
    have ⟨hwidth, hfirst, _⟩ := placesOf_bounds h
    simp only [groupOdd, holdsData, h, Option.any_some, placesTotal, Nat.bodd_add]
    rw [onesIn_flipBit_bodd chA hi (by omega), Bool.xor_right_comm]

theorem groupOdd_flipB : groupOdd chA (flipBit chB i) p c = (groupOdd chA chB p c ^^ holdsParity p i c) := by
  cases h : placesOf c with
  | none => simp [groupOdd, holdsParity, h]
  | some g =>
    simp only [groupOdd, holdsParity, h, Option.any_some, placesTotal, Nat.bodd_add, bodd_toNat]
    rw [bitAt_flipBit chB hi (by omega), Bool.xor_assoc]

end

/-- The rows of R195's statement: the group that reports `code` has its data bits from `first` to `last` back, and its parity
bit `parity` back (43_field_parity.md R186). -/
def IsGroup (first last parity : Nat) (code : ParityOutcome) : Prop :=
  (first, last, parity, code) = (42, 35, 5, .yearFailed) ∨ (first, last, parity, code) = (34, 24, 4, .monthFailed) ∨
    (first, last, parity, code) = (23, 21, 3, .weekdayFailed) ∨ (first, last, parity, code) = (20, 8, 2, .hourFailed)

section
variable {first last parity : Nat} {code : ParityOutcome} (hgroup : IsGroup first last parity code)
include hgroup

theorem IsGroup.code_ne_ok : code ≠ .ok := by
  rcases hgroup with h | h | h | h <;> cases h <;> decide

theorem IsGroup.placesOf_eq :
    placesOf code = some { first := first, width := first - last + 1, parity := parity } := by
  rcases hgroup with h | h | h | h <;> cases h <;> rfl

theorem IsGroup.bounds : last ≤ first ∧ first ≤ 42 ∧ parity ≤ 5 := by
  rcases hgroup with h | h | h | h <;> cases h <;> decide

/-- What holds at a group's own places, and at no other group's, tells its code. -/
theorem IsGroup.any_places_eq {q : Places → Bool}
    (hown : q { first := first, width := first - last + 1, parity := parity } = true)
    (hother : ∀ {c g}, c ≠ code → placesOf c = some g → q g = false) (c : ParityOutcome) :
    (placesOf c).any q = decide (c = code) := by
  by_cases hc : c = code
  · rw [hc, hgroup.placesOf_eq, Option.any_some, hown, decide_eq_true rfl]
  · rw [decide_eq_false hc]
    cases h : placesOf c with
    | none => rfl
    | some g => exact hother hc h

theorem IsGroup.holdsData_eq {p i : Nat} (h58 : 58 ≤ p) (hfirst : p - first ≤ i) (hlast : i ≤ p - last)
    (c : ParityOutcome) : holdsData p i c = decide (c = code) := by
  have ⟨hle, h42, _⟩ := hgroup.bounds
  refine hgroup.any_places_eq (decide_eq_true ?own) (fun {_ g} hc h => decide_eq_false ?other) c
  case own =>
    show p - first ≤ i ∧ i < p - first + (first - last + 1)
    omega
  case other =>
    have ⟨_, hg42, _⟩ := placesOf_bounds h
    have ⟨(hapart : g.first + (first - last + 1) ≤ first ∨ first + g.width ≤ g.first), _⟩ :=
      placesOf_apart hc h hgroup.placesOf_eq
    omega

theorem IsGroup.holdsParity_eq {p : Nat} (h58 : 58 ≤ p) (c : ParityOutcome) :
    holdsParity p (p - parity) c = decide (c = code) := by
  have ⟨_, _, h5⟩ := hgroup.bounds
  refine hgroup.any_places_eq (decide_eq_true rfl) (fun {_ g} hc h => decide_eq_false ?_) c
  have ⟨_, _, hg5⟩ := placesOf_bounds h
  have ⟨_, (hne : g.parity ≠ parity)⟩ := placesOf_apart hc h hgroup.placesOf_eq
  omega

end

/-- Settles O25, by the parities of the four totals: each flip inverts the one of its group. -/
theorem oneFlippedBitIsReportedAndTwoAreNot : Obligations.OneFlippedBitIsReportedAndTwoAreNot := by
  intro chA chB p h58 h61 hpass first last parity code hrow
  have hgroup : IsGroup first last parity code := hrow
  rw [firstFailure_eq_none_iff h58 h61] at hpass
  have hflipA : ∀ {ch i}, p - first ≤ i → i ≤ p - last → ∀ {chB' c},
      groupOdd (flipBit ch i) chB' p c = (groupOdd ch chB' p c ^^ decide (c = code)) := fun hi hi' _ c => by
    rw [groupOdd_flipA h58 h61 (by omega), hgroup.holdsData_eq h58 hi hi']
  have hflipB : ∀ {ch c}, groupOdd ch (flipBit chB (p - parity)) p c = (groupOdd ch chB p c ^^ decide (c = code)) :=
    fun {ch c} => by rw [groupOdd_flipB h58 h61 (by omega), hgroup.holdsParity_eq h58]
  have hreported : ∀ {x y}, (∀ c, groupOdd x y p c = decide (c = code)) →
      firstFailure x y p Config.params.parityTable = some (some code) := firstFailure_of_only_odd h58 h61 hgroup.code_ne_ok
  have hpasses : ∀ {x y}, (∀ c, groupOdd x y p c = false) → firstFailure x y p Config.params.parityTable = some none :=
    (firstFailure_eq_none_iff h58 h61).2
  refine ⟨fun i hi hi' => ?_, ?_, fun i j hi hij hj => ?_, fun i hi hi' => ?_⟩
  · exact hreported (x := flipBit chA i) fun c => by rw [hflipA hi hi', hpass, Bool.false_xor]
  · exact hreported (y := flipBit chB (p - parity)) fun c => by rw [hflipB, hpass, Bool.false_xor]
  · have htwo := assignBit_flipBit_of_ne chA (i := i) (j := j) (by omega) (by omega) (Nat.ne_of_gt hij)
    refine (congrArg (firstFailure · chB p Config.params.parityTable) htwo).trans (hpasses fun c => ?_)
    rw [hflipA (hi.trans hij.le) hj, hflipA hi (hij.le.trans hj), hpass, Bool.false_xor, Bool.xor_self]
  · refine hpasses (x := flipBit chA i) (y := flipBit chB (p - parity)) fun c => ?_
    rw [hflipA hi hi', hflipB, hpass, Bool.false_xor, Bool.xor_self]

/-! ## A match whole -/

theorem assembled_lastFrame_of_some {P : Config.Params} {s : State} {n : Nat}
    (h : frameEpoch P (frameAt P s 0#64) = some n) :
    (assembled P s).lastFrame = frameAt P s (BitVec.ofNat 64 n) := by
  rw [assembled_lastFrame, h]

theorem assembled_lastFrame_of_none {P : Config.Params} {s : State} (h : frameEpoch P (frameAt P s 0#64) = none) :
    (assembled P s).lastFrame = frameAt P s (Config.epochDraw s.draws) := by
  rw [assembled_lastFrame, h]

/-- A channel is determined by its 64 bits. -/
theorem eq_assignBit_of_bits {ch ch' : Channel} {p : Nat} {v : Bool} (hp : p < 64)
    (h : ∀ k, k < 64 → bitAt ch' k = if k = p then v else bitAt ch k) : ch' = assignBit ch p v :=
  channel_ext fun k hk => by rw [h k hk, bitAt_assignBit ch v hp hk]

section
variable {s : State} {p : Nat} (hptr : s.bitPointer.toNat = p) (h58 : 58 ≤ p)
include hptr h58

theorem matched_of_verdict_ne_ok (hbad : parityVerdict s.channelA s.channelB p ≠ .ok) :
    matched Config.params s = { s with
      frameLengthSeconds := BitVec.ofNat 8 p
      leapSecondIndicator := leapOf p
      parityOutcome := parityVerdict s.channelA s.channelB p
      frameReady := false } := by
  subst hptr
  rw [matched_params s h58, if_neg hbad]
  rfl

theorem matched_of_verdict_ok (hok : parityVerdict s.channelA s.channelB p = .ok) :
    matched Config.params s = { s with
      frameLengthSeconds := BitVec.ofNat 8 p
      leapSecondIndicator := leapOf p
      parityOutcome := .ok
      frameReady := true
      lastFrame := (assembled Config.params s.recordMatch.passParity).lastFrame } := by
  subst hptr
  rw [matched_params s h58, if_pos hok, assembled_frame]
  rfl

theorem frameAt_recordMatch (h61 : p ≤ 61) (epoch : BitVec 64) : frameAt Config.params s.recordMatch.passParity epoch =
    frameOf s.channelA s.channelB p (leapOf p) (BitVec.ofNat 8 p) epoch := by
  subst hptr
  exact frameAt_params s.recordMatch.passParity h58 h61 epoch

/-- The record committed at a match, its `epochSeconds` the calendar's or the free value (44_calendar.md R216, R219). -/
theorem committed_of_match (h61 : p ≤ 61) : ∃ epoch,
    (assembled Config.params s.recordMatch.passParity).lastFrame =
      frameOf s.channelA s.channelB p (leapOf p) (BitVec.ofNat 8 p) epoch ∧
    (∀ n, frameEpoch Config.params (frameOf s.channelA s.channelB p (leapOf p) (BitVec.ofNat 8 p) 0#64) = some n →
      epoch = BitVec.ofNat 64 n) ∧
    (frameEpoch Config.params (frameOf s.channelA s.channelB p (leapOf p) (BitVec.ofNat 8 p) 0#64) = none →
      epoch = Config.epochDraw s.draws) := by
  have hframe := frameAt_recordMatch hptr h58 h61
  cases h : frameEpoch Config.params (frameOf s.channelA s.channelB p (leapOf p) (BitVec.ofNat 8 p) 0#64) with
  | some n =>
    have hepoch : frameEpoch Config.params (frameAt Config.params s.recordMatch.passParity 0#64) = some n := by
      rw [hframe, h]
    exact ⟨_, by rw [assembled_lastFrame_of_some hepoch, hframe], fun m hm => congrArg _ (Option.some.inj hm), nofun⟩
  | none =>
    have hepoch : frameEpoch Config.params (frameAt Config.params s.recordMatch.passParity 0#64) = none := by
      rw [hframe, h]
    exact ⟨_, by rw [assembled_lastFrame_of_none hepoch, hframe]; rfl, nofun, fun _ => rfl⟩

end

/-- Settles O22, by the registers a match writes when a group is odd; `lastFrame` is not among them. -/
theorem parityFailureKeepsTheLastFrame : Obligations.ParityFailureKeepsTheLastFrame := by
  intro s i a b f hd hm chA chB hA hB hbad
  have ⟨h58, _⟩ := hm
  have hl := Marker.slotOf_lt_of_completesMarker hm
  obtain rfl := eq_assignBit_of_bits hl hA
  obtain rfl := eq_assignBit_of_bits hl hB
  rw [Registers.exec_of_execCase (.hit hd hm), matched_of_verdict_ne_ok (pairWritten_pointer hl) h58 hbad]
  rfl

/-- Settles O23, by the registers a match writes when every group is even, and the record it commits. -/
theorem paritySuccessCommitsTheFrame : Obligations.ParitySuccessCommitsTheFrame := by
  intro s i a b f hd hm chA chB hA hB hok
  have ⟨h58, h61, _⟩ := hm
  have hl := Marker.slotOf_lt_of_completesMarker hm
  obtain rfl := eq_assignBit_of_bits hl hA
  obtain rfl := eq_assignBit_of_bits hl hB
  have hptr := pairWritten_pointer (s := s) (a := a) (b := b) hl
  obtain ⟨epoch, hlast, hcalendar, hfree⟩ := committed_of_match hptr h58 h61
  refine ⟨epoch, ?_, hcalendar, hfree⟩
  rw [Registers.exec_of_execCase (.hit hd hm), matched_of_verdict_ok hptr h58 hok, hlast]
  rfl

end Sys2Proof.Proofs.Parity
end

section
/-! The statements about the calendar (44_calendar.md): the decimal value of a byte (O30), the leap years (O31), the sum that
EpochSeconds is (O32), its agreement with the civil calendar (O33) and its range (O34). -/

namespace Sys2Proof.Proofs.Calendar

open Sys2Proof.Machine

/-! ## The decimal value of a byte -/

theorem bcdToDecimal_eq_nibbles (b : Byte) :
    bcdToDecimal b = (b.extractLsb' 4 4).toNat * 10 + (b.extractLsb' 0 4).toNat := by
  have := b.isLt
  simp only [bcdToDecimal, BitVec.extractLsb'_toNat, Nat.shiftRight_eq_div_pow]
  omega

theorem bcdToDecimal_bcd {n : Nat} (h : n < 100) : bcdToDecimal (bcd n) = n := by
  simp only [bcdToDecimal, bcd, BitVec.toNat_ofNat]
  omega

/-- A field whose high nibble is at most `t` (44_calendar.md R211). -/
theorem bcdToDecimal_le_of_tens_le {b : Byte} (t : Nat) (h : b.toNat ≤ 16 * t + 15) :
    bcdToDecimal b ≤ 10 * t + 15 := by
  unfold bcdToDecimal
  omega

/-- Settles O30, by the two nibbles of the byte. -/
theorem bcdToDecimalIsTensAndOnes : Obligations.BcdToDecimalIsTensAndOnes :=
  ⟨fun b => ⟨bcdToDecimal_eq_nibbles b, Registers.bcdToDecimal_le b⟩, fun _ => bcdToDecimal_bcd, rfl, rfl⟩

/-! ## The leap years -/

theorem isLeap_iff (o : Nat) :
    isLeap o = true ↔ (1970 + o) % 4 = 0 ∧ ((1970 + o) % 100 ≠ 0 ∨ (1970 + o) % 400 = 0) := by
  simp [isLeap]

theorem isLeap_toNat (o : Nat) : (isLeap o).toNat =
    if (1970 + o) % 4 = 0 ∧ ((1970 + o) % 100 ≠ 0 ∨ (1970 + o) % 400 = 0) then 1 else 0 := by
  rw [Bool.toNat, Bool.cond_eq_ite]
  exact if_congr (isLeap_iff o) rfl rfl

/-- Settles O31, by the remainders of the calendar year: of the multiples of 100 in 1970..2135, 2000 is leap and 2100 is
not. -/
theorem leapYearsAreTestedOnTheCalendarYear : Obligations.LeapYearsAreTestedOnTheCalendarYear := by
  refine ⟨isLeap_iff, fun o ho => ?_, by decide, by decide⟩
  rw [isLeap_iff]
  omega

/-- The leap years from 1970 on, as the multiples of 4 less those of 100 and with those of 400; 477 of them are before. -/
theorem leapsBefore_closed (o : Nat) :
    leapsBefore o + (1969 + o) / 100 + 477 = (1969 + o) / 4 + (1969 + o) / 400 := by
  induction o with
  | zero => rfl
  | succ o ih =>
    rw [leapsBefore, isLeap_toNat]
    split <;> omega

/-- The same count with the year `o` itself in it. -/
theorem leapsBefore_add_isLeap_closed (o : Nat) :
    leapsBefore o + (isLeap o).toNat + (1970 + o) / 100 + 477 = (1970 + o) / 4 + (1970 + o) / 400 := by
  have hyear : 1970 + o = 1969 + (o + 1) := by omega
  rw [hyear]
  exact leapsBefore_closed (o + 1)

theorem leapsBefore_eq_length_filter (o : Nat) :
    leapsBefore o = ((List.range o).filter fun i => isLeap i).length := by
  induction o with
  | zero => rfl
  | succ o ih =>
    rw [leapsBefore, ih, List.range_succ, List.filter_append, List.length_append]
    cases h : isLeap o <;> simp [h]

/-! ## The days of the months -/

theorem daysInMonth_eq (i o : Nat) : daysInMonth Config.params i o =
    Config.params.monthDays.getD (i - 1) 0 + if i = 2 then (isLeap o).toNat else 0 := by
  unfold daysInMonth
  by_cases hi : i = 2
  · subst hi
    cases isLeap o <;> rfl
  · simp [hi]

/-- The months before month `n + 1` are those of a common year, with the leap day once February is among them. -/
theorem daysOfMonths_eq (o n : Nat) : daysOfMonths Config.params o n =
    (Config.params.monthDays.take n).sum + if 2 ≤ n then (isLeap o).toNat else 0 := by
  induction n with
  | zero => rfl
  | succ n ih =>
    have htake : (Config.params.monthDays.take (n + 1)).sum =
        (Config.params.monthDays.take n).sum + Config.params.monthDays.getD n 0 := by
      rw [List.take_add_one, List.sum_append, List.getD_eq_getElem?_getD]
      cases Config.params.monthDays[n]? <;> simp
    rw [daysOfMonths, ih, daysInMonth_eq, htake, Nat.add_sub_cancel]
    split_ifs <;> omega

theorem daysOfMonths_eq_sum_map (o n : Nat) : daysOfMonths Config.params o n =
    ((List.range n).map fun k => if k = 1 ∧ isLeap o = true then 29
      else [31, 28, 31, 30, 31, 30, 31, 31, 30, 31, 30, 31].getD k 0).sum := by
  induction n with
  | zero => rfl
  | succ n ih =>
    rw [daysOfMonths, ih, List.sum_range_succ, daysInMonth, Nat.add_sub_cancel]
    exact congrArg _ (if_congr (and_congr_left' Nat.succ_inj) rfl rfl)

theorem daysOfMonths_mono (o : Nat) : Monotone (daysOfMonths Config.params o) :=
  monotone_nat_of_le_succ fun _ => Nat.le_add_right _ _

/-- The days before a month, counted from 1 March of the year before. -/
theorem daysOfMonths_before_march (o : Nat) {m : Nat} (h1 : 1 ≤ m) (h2 : m ≤ 2) :
    daysOfMonths Config.params o (m - 1) + 306 = (153 * ((m + 9) % 12) + 2) / 5 := by
  rw [daysOfMonths_eq, if_neg (by omega)]
  have htable : ∀ m, m < 3 → 1 ≤ m →
      (Config.params.monthDays.take (m - 1)).sum + 306 = (153 * ((m + 9) % 12) + 2) / 5 := by decide
  exact htable m (by omega) h1

/-- The days before a month, counted from 1 March of the same year. -/
theorem daysOfMonths_from_march (o : Nat) {m : Nat} (h3 : 3 ≤ m) (h12 : m ≤ 12) :
    daysOfMonths Config.params o (m - 1) = 59 + (153 * ((m + 9) % 12) + 2) / 5 + (isLeap o).toNat := by
  rw [daysOfMonths_eq, if_pos (by omega)]
  have htable : ∀ m, m < 13 → 3 ≤ m →
      (Config.params.monthDays.take (m - 1)).sum = 59 + (153 * ((m + 9) % 12) + 2) / 5 := by decide
  rw [htable m (by omega) h3]

theorem civilMonthLength_eq_daysInMonth (o : Nat) {m : Nat} (h1 : 1 ≤ m) (h12 : m ≤ 12) :
    civilMonthLength (1970 + o) m = daysInMonth Config.params m o := by
  rw [daysInMonth_eq]
  by_cases hfeb : m = 2
  · subst hfeb
    rw [isLeap_toNat, civilMonthLength, if_pos rfl, if_pos rfl]
    split <;> rfl
  · have htable : ∀ m, m < 13 → 1 ≤ m → m ≠ 2 →
        (if m = 4 ∨ m = 6 ∨ m = 9 ∨ m = 11 then 30 else 31) = Config.params.monthDays.getD (m - 1) 0 := by decide
    rw [civilMonthLength, if_neg hfeb, if_neg hfeb, htable m (by omega) h1 hfeb, Nat.add_zero]

/-! ## EpochSeconds -/

/-- The days from 1970-01-01 to day `d` of month `m` of offset year `o` (44_calendar.md R216). -/
def elapsedDays (o m d : Nat) : Nat :=
  o * 365 + leapsBefore o + daysOfMonths Config.params o (m - 1) + (d - 1)

theorem epochSeconds_eq_some_iff {year month date hour minute : Byte} {n : Nat} :
    epochSeconds Config.params year month date hour minute = some n ↔
      (1 ≤ bcdToDecimal month ∧ bcdToDecimal month ≤ 12 ∧ 1 ≤ bcdToDecimal date) ∧
      elapsedDays (offsetYear (bcdToDecimal year)) (bcdToDecimal month) (bcdToDecimal date) * 86400 +
        bcdToDecimal hour * 3600 + bcdToDecimal minute * 60 = n := by
  simp only [epochSeconds, elapsedDays, Option.ite_none_left_eq_some, Option.some.injEq, not_or, not_lt]

theorem epochSeconds_eq_none_iff {year month date hour minute : Byte} :
    epochSeconds Config.params year month date hour minute = none ↔
      bcdToDecimal month = 0 ∨ 12 < bcdToDecimal month ∨ bcdToDecimal date = 0 := by
  simp only [epochSeconds, ite_eq_left_iff, reduceCtorEq, imp_false, not_not, Nat.lt_one_iff, gt_iff_lt]

/-- Settles O32, by the sums that the two recursions of the days are. -/
theorem epochSecondsIsTheSumOfElapsedTime : Obligations.EpochSecondsIsTheSumOfElapsedTime := by
  rintro year month date hour minute o rfl
  refine ⟨fun h1 h12 hd => epochSeconds_eq_some_iff.2 ⟨⟨h1, h12, hd⟩, ?_⟩, epochSeconds_eq_none_iff.2⟩
  rw [elapsedDays, leapsBefore_eq_length_filter, daysOfMonths_eq_sum_map]
  rfl

/-! ## The civil calendar -/

/-- The days of `y` years by eras of 400 years, as 365 a year and a leap day by the rule of 4, 100 and 400. -/
theorem days_of_eras (y : Nat) :
    y / 400 * 146097 + (y % 400 * 365 + y % 400 / 4 - y % 400 / 100) + y / 100 = y * 365 + y / 4 + y / 400 := by
  omega

/-- The eras of 400 years are the leap rule's closed form; in January and February the civil year is still the year before. -/
theorem civilDays_eq_elapsedDays (o : Nat) {m : Nat} (d : Nat) (h1 : 1 ≤ m) (h12 : m ≤ 12) :
    civilDays (1970 + o) m d = elapsedDays o m d := by
  unfold civilDays elapsedDays
  by_cases hm : m ≤ 2
  · have hmonths := daysOfMonths_before_march o h1 hm
    have hleaps := leapsBefore_closed o
    have heras := days_of_eras (1969 + o)
    have hyear : 1970 + o - 1 = 1969 + o := by omega
    simp only [if_pos hm, hyear]
    omega
  · have hmonths := daysOfMonths_from_march o (by omega) h12
    have hleaps := leapsBefore_add_isLeap_closed o
    have heras := days_of_eras (1970 + o)
    simp only [if_neg hm]
    omega

theorem offsetYear_of_le {y : Nat} (h : y ≤ 99) : offsetYear y = y + 30 := if_pos h

/-- EpochSeconds by the civil calendar, wherever it has a value; a day past the end of its month is counted on. -/
theorem epochSeconds_eq_civilDays {year month date hour minute : Byte} (h1 : 1 ≤ bcdToDecimal month)
    (h12 : bcdToDecimal month ≤ 12) (hd : 1 ≤ bcdToDecimal date) :
    epochSeconds Config.params year month date hour minute =
      some (civilDays (1970 + offsetYear (bcdToDecimal year)) (bcdToDecimal month) (bcdToDecimal date) * 86400 +
        bcdToDecimal hour * 3600 + bcdToDecimal minute * 60) :=
  epochSeconds_eq_some_iff.2 ⟨⟨h1, h12, hd⟩, by rw [civilDays_eq_elapsedDays _ _ h1 h12]⟩

/-- What a valid BCD byte for each field gives. -/
theorem epochSeconds_bcd {y m d h mi : Nat} (hy : y < 100) (h1 : 1 ≤ m) (h12 : m ≤ 12) (hd1 : 1 ≤ d) (hd : d < 100)
    (hh : h < 100) (hmi : mi < 100) : epochSeconds Config.params (bcd y) (bcd m) (bcd d) (bcd h) (bcd mi) =
      some (civilDays (2000 + y) m d * 86400 + h * 3600 + mi * 60) := by
  have hm : bcdToDecimal (bcd m) = m := bcdToDecimal_bcd (by omega)
  have hdate := bcdToDecimal_bcd hd
  have hyear : 1970 + (y + 30) = 2000 + y := by omega
  rw [epochSeconds_eq_civilDays (by rwa [hm]) (by rwa [hm]) (by rwa [hdate]), hm, hdate, bcdToDecimal_bcd hy,
    bcdToDecimal_bcd hh, bcdToDecimal_bcd hmi, offsetYear_of_le (by omega), hyear]

theorem civilMonthLength_le (year month : Nat) : civilMonthLength year month ≤ 31 := by
  unfold civilMonthLength
  split_ifs <;> decide

/-- Settles O33, by the agreement of the two day counts in every year from 1970 on. -/
theorem epochSecondsAgreesWithTheCivilCalendar : Obligations.EpochSecondsAgreesWithTheCivilCalendar := by
  refine ⟨fun y m d h mi hy h1 h12 hd1 hd hh hmi => ?_, ?_, by decide, by decide⟩
  · have hlen := civilMonthLength_le (2000 + y) m
    exact epochSeconds_bcd hy h1 h12 hd1 (by omega) (by omega) (by omega)
  · exact epochSeconds_eq_civilDays (by decide) (by decide) (by decide)

/-! ## The range of EpochSeconds -/

theorem offsetYear_ge (y : Nat) : 30 ≤ offsetYear y := by
  unfold offsetYear Config.twoDigitYearOffset
  split <;> omega

/-- The days before 1 December, the latest first day of a month. -/
theorem daysOfMonths_le_of_month {m : Nat} (o : Nat) (h12 : m ≤ 12) :
    daysOfMonths Config.params o (m - 1) ≤ 334 + (isLeap o).toNat :=
  (daysOfMonths_mono o (by omega : m - 1 ≤ 11)).trans_eq (daysOfMonths_eq o 11)

/-- A date that exists is a day of its year. -/
theorem daysOfMonths_add_day_le {o m d : Nat} (h1 : 1 ≤ m) (h12 : m ≤ 12) (hd : d ≤ daysInMonth Config.params m o) :
    daysOfMonths Config.params o (m - 1) + d ≤ 365 + (isLeap o).toNat := by
  obtain ⟨k, rfl⟩ := Nat.exists_eq_add_of_le' h1
  calc daysOfMonths Config.params o k + d
    _ ≤ daysOfMonths Config.params o (k + 1) := Nat.add_le_add_left hd _
    _ ≤ daysOfMonths Config.params o 12 := daysOfMonths_mono o h12
    _ = 365 + (isLeap o).toNat := daysOfMonths_eq o 12

/-- From 2000-01-01, the earliest date of a frame. -/
theorem elapsedDays_ge {o : Nat} (m d : Nat) (ho : 30 ≤ o) : 10957 ≤ elapsedDays o m d := by
  have hleaps := leapsBefore_closed o
  unfold elapsedDays
  omega

/-- Up to day 45 of month 12 of the year 2135: a day that does not exist is counted on (44_calendar.md R216). -/
theorem elapsedDays_le {o m d : Nat} (ho : o ≤ 165) (h12 : m ≤ 12) (hd : d ≤ 45) : elapsedDays o m d ≤ 60643 := by
  have hmonths := daysOfMonths_le_of_month o h12
  have hleaps := leapsBefore_add_isLeap_closed o
  unfold elapsedDays
  omega

/-- Up to 2099-12-31, for a date that exists. -/
theorem elapsedDays_le_of_date {o m d : Nat} (ho : o ≤ 129) (h1 : 1 ≤ m) (h12 : m ≤ 12) (hd1 : 1 ≤ d)
    (hd : d ≤ daysInMonth Config.params m o) : elapsedDays o m d ≤ 47481 := by
  have hday := daysOfMonths_add_day_le h1 h12 hd
  have hleaps := leapsBefore_add_isLeap_closed o
  unfold elapsedDays
  omega

theorem epochSeconds_range {year month date hour minute : Byte} {n : Nat} (hdate : date.toNat ≤ 0x3F)
    (hhour : hour.toNat ≤ 0x3F) (hminute : minute.toNat ≤ 0x7F)
    (h : epochSeconds Config.params year month date hour minute = some n) :
    946684800 ≤ n ∧ n ≤ 5239722300 ∧ n % 60 = 0 := by
  obtain ⟨⟨-, h12, -⟩, rfl⟩ := epochSeconds_eq_some_iff.1 h
  have hd := bcdToDecimal_le_of_tens_le 3 hdate
  have hh := bcdToDecimal_le_of_tens_le 3 hhour
  have hmi := bcdToDecimal_le_of_tens_le 7 hminute
  have hfirst := elapsedDays_ge (bcdToDecimal month) (bcdToDecimal date) (offsetYear_ge (bcdToDecimal year))
  have hlast := elapsedDays_le (Registers.offsetYear_le (Registers.bcdToDecimal_le year)) h12 hd
  omega

/-- Settles O34, by the bounds of the elapsed days. -/
theorem epochSecondsStaysInItsRange : Obligations.EpochSecondsStaysInItsRange := by
  refine ⟨fun year month date hour minute n _ hdate hhour hminute h => ?_,
    epochSeconds_eq_civilDays (by decide) (by decide) (by decide),
    epochSeconds_eq_civilDays (by decide) (by decide) (by decide),
    fun y m d h mi n hy h1 h12 hd1 hd hh hmi hn => ?_⟩
  · obtain ⟨hlo, hhi, hmod⟩ := epochSeconds_range hdate hhour hminute h
    exact ⟨hlo, hhi, hmod, by omega⟩
  · have hlen := civilMonthLength_le (2000 + y) m
    have hyear : 2000 + y = 1970 + (y + 30) := by omega
    rw [epochSeconds_bcd hy h1 h12 hd1 (by omega) (by omega) (by omega), hyear,
      civilDays_eq_elapsedDays _ d h1 h12, Option.some.injEq] at hn
    rw [hyear, civilMonthLength_eq_daysInMonth _ h1 h12] at hd
    have hlast := elapsedDays_le_of_date (by omega) h1 h12 hd1 hd
    omega

end Sys2Proof.Proofs.Calendar
end

section
/-! The statements about the output registers and their hand-off (45_output_handoff.md): `READ` (O4), the configuration
(O38), the rise and fall of `timeAvailable` (O40) and the writes of `lastFrame` (O42). -/

namespace Sys2Proof.Proofs.Handoff

open Sys2Proof.Machine
open Registers (ExecCase stepCase_of_step)

/-! ## READ -/

theorem step_of_inbox_read {s : State} {rest : List Transaction} (hin : s.inbox = .read :: rest) :
    step s = .next (s.withInbox rest).readOutputs := by
  simp only [step, Scope.takeTransaction_of_inbox_cons hin, performRead]

/-- Settles O4, by the equation of a step with a `READ` waiting. -/
theorem readCopiesTheOutputsAndChangesNothing : Obligations.ReadCopiesTheOutputsAndChangesNothing := by
  intro s rest hin
  exact step_of_inbox_read hin

/-! ## The configuration -/

/-- A match leaves what the data symbol's write leaves of the registers of the configuration and of the pulse. -/
theorem accepted_hit (P : Config.Params) (s : State) (p : Nat) (a b : Bool) :
    Encoding.Accepted s (matched P (pairWritten s p a b)) :=
  Encoding.accepted_matched (Encoding.accepted_pairWritten s p a b)

theorem execCase_configuration {s t : State} {i : Instr} (hc : ExecCase s i t) :
    t.paddingMs = s.paddingMs ∧ t.carrierOffLevel = s.carrierOffLevel := by
  cases hc with
  | start u => exact ⟨rfl, rfl⟩
  | discard hi => exact ⟨rfl, rfl⟩
  | boundary => exact ⟨rfl, rfl⟩
  | overflow hd hp => exact ⟨rfl, rfl⟩
  | write hd hl hm => exact ⟨rfl, rfl⟩
  | hit hd hm => exact ⟨(accepted_hit _ _ _ _ _).padding, (accepted_hit _ _ _ _ _).carrierOff⟩

/-- Settles O38, by the transaction performed; no operation writes the configuration. -/
theorem onlyResetChangesTheConfiguration : Obligations.OnlyResetChangesTheConfiguration := by
  intro s t h
  cases stepCase_of_step h with
  | idle hin => exact .inr ⟨rfl, rfl⟩
  | operation hp hc =>
    have hsame := execCase_configuration hc
    exact .inr hsame
  | reset hin => exact .inl ⟨_, _, _, hin, rfl, rfl⟩
  | read hin => exact .inr ⟨rfl, rfl⟩

/-! ## The operation a step performs -/

theorem step_of_performs {s : State} {i : Instr} {rest : List Transaction} (hp : Performs s i rest) :
    step s = exec i (s.withInbox rest) := by
  obtain ⟨e, hin, hf⟩ := hp
  exact Scope.step_of_inbox_edge hin hf

theorem performs_unique {s : State} {i j : Instr} {rest rest' : List Transaction} (hi : Performs s i rest)
    (hj : Performs s j rest') : i = j := by
  obtain ⟨e, hin, hf⟩ := hi
  obtain ⟨e', hin', hf'⟩ := hj
  obtain ⟨⟨rfl⟩, -⟩ := List.cons.inj (hin.symm.trans hin')
  exact Decoded.instr.inj (hf.symm.trans hf')

/-- A step performs an operation only where an `EDGE` is waiting. -/
theorem not_performs_of_inbox {s : State} (hin : ∀ e rest, s.inbox ≠ .edge e :: rest) (i : Instr)
    (rest : List Transaction) : ¬ Performs s i rest := by
  rintro ⟨e, hedge, -⟩
  exact hin e rest hedge

theorem exists_performs_of_inbox_edge {s : State} {e : Edge} {rest : List Transaction} (hin : s.inbox = .edge e :: rest) :
    ∃ i, Performs s i rest := by
  obtain ⟨i, hi⟩ := decodeOpword_total (opwordOf s e) e.timestampMillis
  exact ⟨i, e, hin, hi⟩

/-- A pulse end is not decoded to a pulse start (30_encoding.md R92). -/
theorem fetchInstr_end_ne_pstart {s : State} {e : Edge} (he : e.level ≠ s.carrierOffLevel) (u : Millis) :
    fetchInstr s e ≠ .instr (.pstart u) := by
  rw [Encoding.fetchInstr_of_lengthCode he rfl]
  intro h
  split_ifs at h <;> cases h

/-! ## `timeAvailable` -/

/-- `timeAvailable` after an operation: PSTART leaves it, SYM5 takes it from `frameReady`, every other pulse end clears
it. -/
theorem execCase_timeAvailable {s t : State} {i : Instr} (hc : ExecCase s i t) :
    (∃ u, i = .pstart u ∧ t.timeAvailable = s.timeAvailable) ∨
    (i = .sym5 ∧ t.timeAvailable = s.frameReady) ∨ t.timeAvailable = false := by
  cases hc with
  | start u => exact .inl ⟨u, rfl, rfl⟩
  | discard hi => exact .inr (.inr rfl)
  | boundary =>
    refine .inr (.inl ⟨rfl, ?_⟩)
    rw [Accumulator.handOff_of_not_timeAvailable rfl]
    rfl
  | overflow hd hp => exact .inr (.inr rfl)
  | write hd hl hm => exact .inr (.inr rfl)
  | hit hd hm => exact .inr (.inr (accepted_hit _ _ _ _ _).available)

section
variable {s t : State} (h : step s = .next t)
include h

theorem timeAvailable_origin (ht : t.timeAvailable = true) :
    (∃ rest, Performs s .sym5 rest ∧ s.frameReady = true) ∨
    (s.timeAvailable = true ∧ ∀ i rest, Performs s i rest → ∃ u, i = .pstart u) := by
  cases stepCase_of_step h with
  | idle hin => exact .inr ⟨ht, fun i rest hp => absurd hp (not_performs_of_inbox (by simp [hin]) i rest)⟩
  | reset hin => cases ht
  | read hin => exact .inr ⟨ht, fun i rest hp => absurd hp (not_performs_of_inbox (by simp [hin]) i rest)⟩
  | operation hp hc =>
    rcases execCase_timeAvailable hc with ⟨u, rfl, hsame⟩ | ⟨rfl, hready⟩ | hclear
    · exact .inr ⟨hsame.symm.trans ht, fun j rest hj => ⟨u, performs_unique hj hp⟩⟩
    · exact .inl ⟨_, hp, hready.symm.trans ht⟩
    · exact absurd (hclear.symm.trans ht) (by decide)

theorem handOff_of_performs_sym5 {rest : List Transaction} (hp : Performs s .sym5 rest) :
    t.timeAvailable = s.frameReady ∧ t.frameReady = false := by
  rw [step_of_performs hp, Accumulator.exec_sym5] at h
  cases h
  exact ⟨rfl, rfl⟩

theorem timeAvailable_of_performs_pstart {u : Millis} {rest : List Transaction} (hp : Performs s (.pstart u) rest) :
    t.timeAvailable = s.timeAvailable := by
  rw [step_of_performs hp, Classifier.exec_pstart] at h
  cases h
  rfl

theorem timeAvailable_cleared_at_end {e : Edge} {rest : List Transaction} (hin : s.inbox = .edge e :: rest)
    (he : e.level ≠ s.carrierOffLevel) (hne : ¬ Performs s .sym5 rest) : t.timeAvailable = false := by
  obtain ⟨i, hp⟩ := exists_performs_of_inbox_edge hin
  rw [step_of_performs hp] at h
  rcases execCase_timeAvailable (Registers.exec_eq_next.1 h) with ⟨u, rfl, -⟩ | ⟨rfl, -⟩ | hclear
  · obtain ⟨e', hin', hf⟩ := hp
    obtain ⟨⟨rfl⟩, -⟩ := List.cons.inj (hin.symm.trans hin')
    exact absurd hf (fetchInstr_end_ne_pstart he u)
  · exact absurd hp hne
  · exact hclear

end

/-- Settles O40, by its four clauses: the origin of a raised flag, SYM5, PSTART, and every other pulse end. -/
theorem timeAvailableRisesOnlyAtAMinuteBoundary : Obligations.TimeAvailableRisesOnlyAtAMinuteBoundary := by
  intro s t h
  exact ⟨timeAvailable_origin h, fun _ => handOff_of_performs_sym5 h, fun _ _ => timeAvailable_of_performs_pstart h,
    fun _ _ => timeAvailable_cleared_at_end h⟩

/-! ## `lastFrame` -/

/-- A match leaves `lastFrame`, or its verdict is `ok` and it sets `frameReady` with a legal length. -/
theorem matched_lastFrame_cases {s : State} (h58 : 58 ≤ s.bitPointer.toNat) (h61 : s.bitPointer.toNat ≤ 61) :
    (matched Config.params s).lastFrame = s.lastFrame ∨
    (parityVerdict s.channelA s.channelB s.bitPointer.toNat = .ok ∧ (matched Config.params s).frameReady = true ∧
      58 ≤ (matched Config.params s).frameLengthSeconds.toNat) := by
  by_cases hok : parityVerdict s.channelA s.channelB s.bitPointer.toNat = .ok
  · refine .inr ⟨hok, ?_, ?_⟩
    · rw [Registers.matched_frameReady h58, hok]
      rfl
    · rw [Marker.matched_frameLengthSeconds, BitVec.toNat_ofNat]
      omega
  · exact .inl (Marker.matched_lastFrame_of_ne_ok h58 hok)

/-- `lastFrame` after an operation: only a validated match writes it. -/
theorem execCase_lastFrame {s t : State} {i : Instr} (hc : ExecCase s i t) :
    t.lastFrame = s.lastFrame ∨ ∃ a b f, dataPair i = some (a, b, f) ∧ completesMarker a f s ∧
      parityVerdict t.channelA t.channelB (slotOf f s) = .ok ∧ t.frameReady = true ∧ 58 ≤ t.frameLengthSeconds.toNat := by
  cases hc with
  | start u => exact .inl rfl
  | discard hi => exact .inl rfl
  | boundary => exact .inl rfl
  | overflow hd hp => exact .inl rfl
  | write hd hl hm => exact .inl rfl
  | @hit _ a b f hd hm =>
    have ⟨h58, h61, _⟩ := hm
    have hptr := pairWritten_pointer (s := s) (a := a) (b := b) (Marker.slotOf_lt_of_completesMarker hm)
    rcases matched_lastFrame_cases (hptr.symm ▸ h58) (hptr.symm ▸ h61) with hsame | ⟨hok, hready, hlen⟩
    · exact .inl hsame
    · refine .inr ⟨a, b, f, hd, hm, ?_, hready, hlen⟩
      rw [Registers.matched_channelA, Registers.matched_channelB]
      rwa [hptr] at hok

/-- Settles O42, by the transaction performed and the operation's effect on `lastFrame`. -/
theorem lastFrameIsWrittenOnlyAtAValidatedMatch : Obligations.LastFrameIsWrittenOnlyAtAValidatedMatch := by
  intro s t h hne
  cases stepCase_of_step h with
  | idle hin => exact absurd rfl hne
  | reset hin => exact .inl ⟨_, _, _, hin⟩
  | read hin => exact absurd rfl hne
  | operation hp hc =>
    obtain ⟨a, b, f, hd, hm, hvalid⟩ := (execCase_lastFrame hc).resolve_left hne
    exact .inr ⟨_, a, b, f, _, hp, hd, hm, hvalid⟩

end Sys2Proof.Proofs.Handoff
end

section
/-! The statements about exceptions (60_exceptions.md): a step with nothing issued (O3), and that every step of every state
answers a next state (O35). -/

namespace Sys2Proof.Proofs.Exceptions

open Sys2Proof.Machine

/-- With no transaction to take, the step is `idle` (60_exceptions.md R259; log 2). -/
theorem step_of_inbox_nil {s : State} (hin : s.inbox = []) : step s = .next s := by
  simp only [step, takeTransaction, hin, idle]

/-- Settles O3, by the equation of a step with an empty port. -/
theorem noTransactionLeavesTheState : Obligations.NoTransactionLeavesTheState := by
  intro s hin
  exact step_of_inbox_nil hin

/-- Every operation answers in every state: the slot that a data symbol writes and the bits that a match reads are within
the side conditions of the channel accesses (20_memory.md R70). -/
theorem safe_of_step_eq_exec {s u : State} {i : Instr} (h : step s = exec i u) : Safe s := by
  obtain ⟨t, ht, _⟩ := Registers.exec_answers i u
  exact ⟨t, h.trans ht⟩

/-- Settles O35, by the transaction performed: `RESET`, `READ` and the step with nothing issued answer directly (R250), and
every `EDGE` is decoded to an operation, which answers. -/
theorem everyStepAnswersANextState : Obligations.EveryStepAnswersANextState := by
  intro s
  rcases step_cases s with ⟨_, hidle⟩ | ⟨_, _, _, _, _, hedge⟩ | ⟨_, _, _, _, hreset⟩ | ⟨_, _, hread⟩
  · exact ⟨_, hidle⟩
  · exact safe_of_step_eq_exec hedge
  · exact ⟨_, hreset⟩
  · exact ⟨_, hread⟩

end Sys2Proof.Proofs.Exceptions
end

section
/-! The statement about reset (70_reset_and_hazards.md): `State.reset` against what a performed `RESET(0, 1)` leaves (O2). -/

namespace Sys2Proof.Proofs.Reset

open Sys2Proof.Machine

/-- From an empty port and with nothing read, the default configuration (00_scope.md R8, R9) re-arms to `State.reset`, but
for the index of free values (log 4, log 7). -/
theorem rearm_default_eq_reset {s : State} (hin : s.inbox = []) (hread : s.readings = []) :
    s.rearm Config.defaultPaddingMs Config.defaultCarrierOffLevel = { State.reset with draws := s.draws + 1 } := by
  rw [Registers.rearm_eq, hin, hread]
  rfl

/-- Settles O2, by the equation of a step that performs `RESET`: it takes the only transaction, and leaves the port empty. -/
theorem resetStateIsWhatTheDefaultResetLeaves : Obligations.ResetStateIsWhatTheDefaultResetLeaves := by
  intro s hin hread
  have hreset : (s.withInbox []).rearm 0#16 true = { State.reset with draws := s.draws + 1 } :=
    rearm_default_eq_reset (s := s.withInbox []) rfl hread
  rw [Registers.step_of_inbox_reset hin, hreset]

end Sys2Proof.Proofs.Reset
end
